-- ==== Sys2Proof/Word.lean ====
section
/-! DEFINITION. The two widths of the 8085: an 8-bit byte and a 16-bit word (spec/00_scope.md R6).
Byte order and bit fields live in Machine/Bytes.lean. -/

namespace Sys2Proof

/-- An 8-bit register, memory location or port datum (R6, R20, R60). -/
abbrev Byte := BitVec 8

/-- A 16-bit address, register pair, stack pointer or program counter (R6, R21, R25, R26). -/
abbrev Word := BitVec 16

end Sys2Proof
end

