-- ==== Sys2Proof/Machine/Bytes.lean ====
section
/-! DEFINITION. Halves of a word and byte order: in every 16-bit value the source writes as two bytes the
first named is the high one (spec/00_scope.md R7, R9; spec/20_memory.md R62 to R64). -/

namespace Sys2Proof

/-- `hi:lo`, the 16-bit value with these halves (R9). -/
def wordOf (hi lo : Byte) : Word := hi ++ lo

/-- `v[15:8]` (R9). -/
def hiByte (w : Word) : Byte := w.extractLsb' 8 8

/-- `v[7:0]` (R9). -/
def loByte (w : Word) : Byte := w.extractLsb' 0 8

end Sys2Proof
end

