-- ==== Sys2Proof/Syntax.lean ====
section
/-! DEFINITION. The instruction set as syntax: one constructor for each of the 95 rows of
spec/opcode_table.json, with its operand classes (spec/10_state.md R22, R24; spec/30_encoding.md R92 to R96). -/

namespace Sys2Proof

/-- Operand class `r`: the seven 8-bit registers (R20, R22). `M` is not a member. -/
inductive Reg where
  | b | c | d | e | h | l | a
deriving DecidableEq, Repr

/-- Operand class `rp`: BC, DE, HL and SP (R21, R24). Which members an instruction admits is
checked by `Instr.wellFormed`. -/
inductive Pair where
  | b | d | h | sp
deriving DecidableEq, Repr

/-- The eight conditions of the conditional jumps, calls and returns (R94, R241). -/
inductive Cond where
  | nz | z | nc | c | po | pe | p | m
deriving DecidableEq, Repr

/-- An instruction; each constructor's comment names its rule. -/
inductive Instr where
  -- data transfer (spec/41_data_transfer.md)
  | mviR (r : Reg) (data : Byte)   -- R132
  | movRR (r1 r2 : Reg)            -- R133
  | movRM (r : Reg)                -- R134
  | movMR (r : Reg)                -- R135
  | mviM (data : Byte)             -- R136
  | lxi (rp : Pair) (data : Word)  -- R137
  | lda (addr : Word)              -- R138
  | sta (addr : Word)              -- R139
  | lhld (addr : Word)             -- R140
  | shld (addr : Word)             -- R141
  | ldax (rp : Pair)               -- R142
  | stax (rp : Pair)               -- R143
  | xchg                           -- R144
  -- arithmetic (spec/42_arithmetic.md)
  | addR (r : Reg)                 -- R163
  | addM                           -- R164
  | adi (data : Byte)              -- R165
  | adcR (r : Reg)                 -- R166
  | adcM                           -- R167
  | aci (data : Byte)              -- R168
  | subR (r : Reg)                 -- R169
  | subM                           -- R170
  | sui (data : Byte)              -- R171
  | sbbR (r : Reg)                 -- R172
  | sbbM                           -- R173
  | sbi (data : Byte)              -- R174
  | inrR (r : Reg)                 -- R175
  | inrM                           -- R176
  | dcrR (r : Reg)                 -- R177
  | dcrM                           -- R178
  | inx (rp : Pair)                -- R179
  | dcx (rp : Pair)                -- R180
  | dad (rp : Pair)                -- R181
  | daa                            -- R182
  -- logical (spec/43_logical.md)
  | anaR (r : Reg)                 -- R201
  | anaM                           -- R202
  | ani (data : Byte)              -- R203
  | xraR (r : Reg)                 -- R204
  | xraM                           -- R205
  | xri (data : Byte)              -- R206
  | oraR (r : Reg)                 -- R207
  | oraM                           -- R208
  | ori (data : Byte)              -- R209
  | cmpR (r : Reg)                 -- R210
  | cmpM                           -- R211
  | cpi (data : Byte)              -- R212
  | rlc                            -- R213
  | rrc                            -- R214
  | ral                            -- R215
  | rar                            -- R216
  | cma                            -- R217
  | cmc                            -- R218
  | stc                            -- R219
  -- branch (spec/44_branch.md)
  | jmp (addr : Word)              -- R242
  | jnz (addr : Word)              -- R244
  | jz (addr : Word)               -- R245
  | jnc (addr : Word)              -- R246
  | jc (addr : Word)               -- R247
  | jpo (addr : Word)              -- R248
  | jpe (addr : Word)              -- R249
  | jp (addr : Word)               -- R250
  | jm (addr : Word)               -- R251
  | call (addr : Word)             -- R252
  | cnz (addr : Word)              -- R254
  | cz (addr : Word)               -- R255
  | cnc (addr : Word)              -- R256
  | cc (addr : Word)               -- R257
  | cpo (addr : Word)              -- R258
  | cpe (addr : Word)              -- R259
  | cp (addr : Word)               -- R260
  | cm (addr : Word)               -- R261
  | ret                            -- R262
  | rnz                            -- R264
  | rz                             -- R265
  | rnc                            -- R266
  | rc                             -- R267
  | rpo                            -- R268
  | rpe                            -- R269
  | rp                             -- R270
  | rm                             -- R271
  | rst (n : BitVec 3)             -- R272
  | pchl                           -- R273
  -- control, stack and I/O (spec/45_control_stack_io.md)
  | push (rp : Pair)               -- R281
  | pushPsw                        -- R282
  | pop (rp : Pair)                -- R283
  | popPsw                         -- R284
  | xthl                           -- R285
  | sphl                           -- R286
  | inPort (port : Byte)           -- R287
  | outPort (port : Byte)          -- R288
  | ei                             -- R289
  | di                             -- R290
  | hlt                            -- R291
  | nop                            -- R292
  | rim                            -- R293
  | sim                            -- R294
deriving DecidableEq, Repr

end Sys2Proof
end

