-- ==== Sys2Proof/Config.lean ====
section
/-! DEFINITION. What the platform or the environment decides: the named parameters of
spec/00_scope.md R6 with their defaults, and the free values, opaque constants that no proof can evaluate.
A free value is applied to the draw counter of State, so that each use is fresh (`any8()` of R9). -/

namespace Sys2Proof

/-! ### Parameters -/

/-- The five interrupt inputs (R322). -/
inductive IntSource where
  | trap | rst75 | rst65 | rst55 | intr
deriving DecidableEq, Repr

/-- INTERRUPTS: which of the inputs the platform has, in which priority, and the addresses at which the vectored ones enter
(R6, R322, R325, D14; log 25). INTR has no address of its own (R333). -/
structure InterruptSet where
  /-- the inputs there are, the one of highest priority first -/
  priority : List IntSource
  trapEntry : Word
  rst75Entry : Word
  rst65Entry : Word
  rst55Entry : Word
deriving DecidableEq, Repr

/-- The default of INTERRUPTS, the 8085 set (R322, R325). -/
def InterruptSet.standard : InterruptSet where
  priority := [.trap, .rst75, .rst65, .rst55, .intr]
  trapEntry := 0x0024
  rst75Entry := 0x003C
  rst65Entry := 0x0034
  rst55Entry := 0x002C

/-- The premise "no interrupt is ever requested" (R6, D14): no input at all. -/
def InterruptSet.absent : InterruptSet := { InterruptSet.standard with priority := [] }

/-- ILLEGAL_OPCODE: what the platform says of the ten bytes of R100 (R6, D3; log 12). -/
inductive IllegalOpcode where
  /-- the default: the model gives the byte no meaning -/
  | refuse
  /-- the byte acts as a one-byte NOP -/
  | nop
deriving DecidableEq, Repr

/-- The parameters of R6 that are values fixed for a run; MEM_MAP is `memMap` of the state, and FLAG_BYTE_FILL, IO_IN and
INTR_INSTRUCTION are answers drawn during it (log 25). -/
structure Params where
  /-- RESET_PC, the address of the first instruction after reset (R50, D10; log 23) -/
  resetPc : Word
  /-- INTERRUPTS -/
  interrupts : InterruptSet
  /-- ILLEGAL_OPCODE -/
  illegalOpcode : IllegalOpcode
deriving DecidableEq, Repr

/-- The defaults of R6. -/
def Params.standard : Params where
  resetPc := 0x0000
  interrupts := .standard
  illegalOpcode := .refuse

/-! ### Memory and free values -/

/-- What a memory byte that no write has reached reads as (log 3: DESIGN CHOICE, unsafe). -/
def Config.unwrittenByte : Byte := 0x00

/-- Free value: bits 5, 3 and 1 (high to low) of the flag byte that a PUSH PSW stores, FLAG_BYTE_FILL (R29, D6; log 4). -/
opaque Config.flagFill : Nat → BitVec 3

/-- Free value: the byte the environment answers to an IN of a port, IO_IN (R69, R287, D8; log 5). -/
opaque Config.portInput : Nat → Byte → Byte

/-- Free value: the level of the serial input SID when a RIM samples it (R45, R293, U9; log 6). -/
opaque Config.sidLevel : Nat → Bool

/-- Free value: the level of the RST 6.5 input when a RIM samples it (R44, R293, U9; log 6). -/
opaque Config.rst65Level : Nat → Bool

/-- Free value: the level of the RST 5.5 input when a RIM samples it (R44, R293, U9; log 6). -/
opaque Config.rst55Level : Nat → Bool

/-- Free value: the IE bit of a RIM right after EI, or of the first RIM after a TRAP (U6, U7, D19; log 6). -/
opaque Config.rimEnableBit : Nat → Bool

/-- Free value: what a read of a device address answers (R78; log 11). -/
opaque Config.deviceRead : Nat → Word → Byte

/-- Free value: what a read of an absent address answers (R78, D24; log 11). -/
opaque Config.absentRead : Nat → Word → Byte

/-- Free value: what a register holds after a reset that arrives while the machine runs (R361, D11; log 13). -/
opaque Config.resetRegister : Nat → Reg → Byte

/-- Free value: the flags S, Z, AC, P, CY (high to low) after such a reset (R361, D11; log 13). -/
opaque Config.resetFlags : Nat → BitVec 5

/-- Free value: the stack pointer after such a reset (R361, D11; log 13). -/
opaque Config.resetSp : Nat → Word

end Sys2Proof
end

