-- ==== Sys2Proof/Machine/State.lean ====
section
/-! DEFINITION. The state of the machine as plain data: every register, flag and latch of
spec/10_state.md, the memory, and the platform's and environment's own data; why a step can stop;
and the state right after reset (R50, R360). -/

namespace Sys2Proof.Machine

/-- The seven 8-bit general registers (R20). -/
structure Regs where
  a : Byte
  b : Byte
  c : Byte
  d : Byte
  e : Byte
  h : Byte
  l : Byte
deriving DecidableEq, Repr

/-- The five flags, the register F (R28, R30 to R34). -/
structure Flags where
  s : Bool
  z : Bool
  ac : Bool
  p : Bool
  cy : Bool
deriving DecidableEq, Repr

/-- What the platform puts at an address (R78). A ROM is marked with whether the platform says that a
write to it leaves memory unchanged; where it does not say so the model refuses the write (log 21). -/
inductive Region where
  | ram
  | rom (writesIgnored : Bool)
  | device
  | absent
deriving DecidableEq, Repr

/-- One range of MEM_MAP, both ends included (R78). -/
structure MapEntry where
  first : Word
  last : Word
  kind : Region
deriving DecidableEq, Repr

/-- An output event: OUT to a port (R69) or a write to a device address (R78). -/
inductive OutputEvent where
  | port (port : Byte) (value : Byte)
  | device (addr : Word) (value : Byte)
deriving DecidableEq, Repr

/-- INTR_INSTRUCTION: what a device supplies when INTR is taken (R333, D16; log 20). -/
inductive SuppliedInstr where
  | rst (n : BitVec 3)
  | call (addr : Word)
deriving DecidableEq, Repr

/-- What the environment does in the course of one step and at the boundary that ends it (R322 to R324,
R333, R361; D17; log 8, 9, 10, 13). -/
structure BoundaryInput where
  /-- a reset arrives in this step, when this many writes have been made in it (R361) -/
  reset : Option Nat
  /-- a rising edge on TRAP came in this step -/
  trapEdge : Bool
  /-- TRAP is high at the boundary -/
  trapLevel : Bool
  /-- a rising edge on RST 7.5 came in this step -/
  rst75Edge : Bool
  /-- RST 6.5 is high at the boundary -/
  rst65 : Bool
  /-- RST 5.5 is high at the boundary -/
  rst55 : Bool
  /-- INTR is high at the boundary -/
  intr : Bool
  /-- the instruction the device supplies if INTR is taken at this boundary -/
  supplied : SuppliedInstr
deriving DecidableEq, Repr

/-- Memory as (address, byte) pairs, addresses strictly rising, no entry that reads like an unlisted
address (R60, R61; the form is `Memory.wf` of Machine/Ops.lean). -/
abbrev Memory := List Host.Cell

/-- The whole state. The last six fields are the model's own: the platform's parameters and map, the
environment's queue and trace, and the bookkeeping of free values. -/
structure State where
  /-- A, B, C, D, E, H, L (R20) -/
  regs : Regs
  /-- S, Z, AC, P, CY (R28) -/
  flags : Flags
  /-- SP (R25) -/
  sp : Word
  /-- PC (R26) -/
  pc : Word
  /-- INTE (R40) -/
  inte : Bool
  /-- an EI has executed whose enabling has not taken effect (R41) -/
  eiPending : Bool
  /-- the processor has stopped (R46) -/
  halted : Bool
  /-- mask M7.5 (R43) -/
  m75 : Bool
  /-- mask M6.5 (R43) -/
  m65 : Bool
  /-- mask M5.5 (R43) -/
  m55 : Bool
  /-- the RST 7.5 edge latch I7_5 (R44) -/
  i75 : Bool
  /-- the serial output latch SOD (R45) -/
  sod : Bool
  /-- a TRAP edge has come and the level has stayed high since (R324; log 9) -/
  trapPending : Bool
  /-- the memory (R47, R60) -/
  mem : Memory
  /-- RESET_PC, INTERRUPTS and ILLEGAL_OPCODE (R6; log 25) -/
  params : Params
  /-- MEM_MAP; an address in no range is RAM (R78; log 11) -/
  memMap : List MapEntry
  /-- the output events so far, oldest first (R69; log 22) -/
  outputs : List OutputEvent
  /-- what the environment does in the coming steps, the next one first (log 8) -/
  inputs : List BoundaryInput
  /-- how many free values have been drawn (R9 `any8()`; log 7) -/
  draws : Nat
  /-- the next RIM is the first one after a TRAP (R332, U7; log 6) -/
  trapRim : Bool
deriving DecidableEq, Repr

/-- Why the machine faults: it never does. This hardware raises no synchronous exception (R320), so the
type has no constructor. -/
inductive Fault where
deriving DecidableEq, Repr

/-- Where the model declines to give a next state. None is an event of the hardware (R320). -/
inductive Refusal where
  /-- Raised by an arm of `exec` whose instruction has no meaning yet; no arm raises it in this model. Safe. -/
  | notModelled (mnemonic : String)
  /-- Raised by `step` where byte 1 at PC selects no instruction: `raise IllegalOpcode(byte1)` (R100, D3; log 12), the default of
  ILLEGAL_OPCODE. Safe. -/
  | illegalOpcode (byte1 : Byte)
  /-- Raised by a store to a ROM address whose platform does not say what a write does (R78, D24; log 21). Safe. -/
  | romWrite (addr : Word)
deriving DecidableEq, Repr

/-- The outcome of an instruction or of a step. -/
abbrev Result := Host.Outcome State Fault Refusal

/-- The state right after reset (R50, R360), with the platform's parameters as named arguments (R6). Registers, flags and SP are zero
only because a value must stand there (log 2); so are `trapPending`, `draws` and `trapRim` (log 7, 9, 6), and no environment event is
queued (log 8). -/
def State.resetWith (params : Params) (memMap : List MapEntry) : State where
  regs := ⟨0, 0, 0, 0, 0, 0, 0⟩
  flags := ⟨false, false, false, false, false⟩
  sp := 0
  pc := params.resetPc
  inte := false
  eiPending := false
  halted := false
  m75 := true
  m65 := true
  m55 := true
  i75 := false
  sod := false
  trapPending := false
  mem := []
  params := params
  memMap := memMap
  outputs := []
  inputs := []
  draws := 0
  trapRim := false

/-- The state right after reset under the defaults of R6: RESET_PC 0x0000, the 8085 interrupt inputs, all of memory RAM. -/
def State.reset : State := State.resetWith .standard []

end Sys2Proof.Machine
end

