-- ==== Sys2Proof/Machine/Flags.lean ====
section
/-! DEFINITION. Every flag computation of the spec: spec/10_state.md R29 to R35, spec/42_arithmetic.md R161,
R162, R181, R182 and the flag lines of spec/43_logical.md. -/

namespace Sys2Proof.Machine

/-- The number of 1 bits of a byte. -/
def popCount (v : Byte) : Nat :=
  ((List.range 8).filter fun i => v.getLsbD i).length

/-- R33, R35: 1 where the number of 1 bits is even. -/
def parity (v : Byte) : Bool := popCount v % 2 == 0

/-- R35 `szp`: S, Z and P from an 8-bit result; AC and CY stay. -/
def Flags.szp (f : Flags) (res : Byte) : Flags :=
  { f with s := res.getLsbD 7, z := res == 0, p := parity res }

/-- R29 `Fbyte()`: S Z u5 AC u3 P u1 CY from bit 7 down, with u5, u3, u1 the three fill bits. -/
def Flags.toByte (f : Flags) (fill : BitVec 3) : Byte :=
  BitVec.ofBool f.s ++ BitVec.ofBool f.z ++ BitVec.ofBool (fill.getLsbD 2) ++ BitVec.ofBool f.ac ++
    BitVec.ofBool (fill.getLsbD 1) ++ BitVec.ofBool f.p ++ BitVec.ofBool (fill.getLsbD 0) ++ BitVec.ofBool f.cy

/-- R284: the flags POP PSW takes from a byte; bits 5, 3, 1 are ignored. -/
def Flags.ofByte (v : Byte) : Flags where
  s := v.getLsbD 7
  z := v.getLsbD 6
  ac := v.getLsbD 4
  p := v.getLsbD 2
  cy := v.getLsbD 0

/-- An 8-bit result with its carry and auxiliary carry, the triple that R161 and R162 return. -/
structure Alu where
  res : Byte
  cy : Bool
  ac : Bool
deriving DecidableEq, Repr

/-- R161 `add8(a, b, c)`. -/
def add8 (a b : Byte) (c : Bool) : Alu :=
  let t := a.toNat + b.toNat + c.toNat
  { res := BitVec.ofNat 8 t
    cy := decide (t > 255)
    ac := decide (a.toNat % 16 + b.toNat % 16 + c.toNat > 15) }

/-- R162 `sub8(a, b, c)`: CY is the borrow, AC the carry out of bit 3 of `a + ~b + (1 - c)`. -/
def sub8 (a b : Byte) (c : Bool) : Alu :=
  { res := a - b - BitVec.ofNat 8 c.toNat
    cy := decide (a.toNat < b.toNat + c.toNat)
    ac := decide (a.toNat % 16 + (15 - b.toNat % 16) + (1 - c.toNat) > 15) }

/-- R182 DAA, the two sequential steps. -/
def daa8 (a : Byte) (ac cy : Bool) : Alu :=
  let low := decide (a.toNat % 16 > 9) || ac
  let t := if low then a.toNat + 6 else a.toNat
  let a1 := t % 256
  let high := decide (a1 / 16 > 9) || cy || decide (t > 255)
  { res := BitVec.ofNat 8 (if high then a1 + 0x60 else a1)
    cy := high
    ac := low && decide (a.toNat % 16 + 6 > 15) }

/-- All five flags of an arithmetic result (R163, R169, R210): S, Z, P from the result, CY and AC as computed. -/
def Flags.ofAlu (f : Flags) (r : Alu) : Flags :=
  { f.szp r.res with cy := r.cy, ac := r.ac }

/-- The flags of INR and DCR: all but CY (R175, R177). -/
def Flags.ofAluKeepCy (f : Flags) (r : Alu) : Flags :=
  { f.szp r.res with ac := r.ac }

/-- The flags of a logical result: CY cleared, AC as the instruction says (R201, R204, R207). -/
def Flags.ofLogic (f : Flags) (res : Byte) (ac : Bool) : Flags :=
  { f.szp res with cy := false, ac := ac }

/-- A rotated accumulator and the bit that went to CY (R213 to R216). -/
structure Rotated where
  res : Byte
  cy : Bool
deriving DecidableEq, Repr

/-- R213 RLC: bit 7 goes to bit 0 and to CY. -/
def rotateLeft (a : Byte) : Rotated :=
  { res := (a <<< 1) ||| BitVec.ofNat 8 (a.getLsbD 7).toNat, cy := a.getLsbD 7 }

/-- R214 RRC: bit 0 goes to bit 7 and to CY. -/
def rotateRight (a : Byte) : Rotated :=
  { res := (a >>> 1) ||| BitVec.ofNat 8 ((a.getLsbD 0).toNat * 128), cy := a.getLsbD 0 }

/-- R215 RAL: bit 7 goes to CY, the old CY to bit 0. -/
def rotateLeftThroughCarry (a : Byte) (cy : Bool) : Rotated :=
  { res := (a <<< 1) ||| BitVec.ofNat 8 cy.toNat, cy := a.getLsbD 7 }

/-- R216 RAR: bit 0 goes to CY, the old CY to bit 7. -/
def rotateRightThroughCarry (a : Byte) (cy : Bool) : Rotated :=
  { res := (a >>> 1) ||| BitVec.ofNat 8 (cy.toNat * 128), cy := a.getLsbD 0 }

/-- R241 `cond(c)`: the flag test of each condition. -/
def Flags.holds (f : Flags) : Cond → Bool
  | .nz => !f.z
  | .z => f.z
  | .nc => !f.cy
  | .c => f.cy
  | .po => !f.p
  | .pe => f.p
  | .p => !f.s
  | .m => f.s

/-- R293: the byte RIM loads, SID I7.5 I6.5 I5.5 IE M7.5 M6.5 M5.5 from bit 7 down. -/
def rimByte (sid i75 i65 i55 ie m75 m65 m55 : Bool) : Byte :=
  BitVec.ofBool sid ++ BitVec.ofBool i75 ++ BitVec.ofBool i65 ++ BitVec.ofBool i55 ++
    BitVec.ofBool ie ++ BitVec.ofBool m75 ++ BitVec.ofBool m65 ++ BitVec.ofBool m55

end Sys2Proof.Machine
end

