-- ==== Sys2Proof/Machine/Operands.lean ====
section
/-! DEFINITION. Every operand form over the state: register, register pair, the pair views BC, DE, HL, the next
address, the accumulator with the flags (spec/10_state.md R20 to R27; spec/00_scope.md R9). -/

namespace Sys2Proof.Machine

/-- `x[r]` (R9, R22). -/
def State.reg (s : State) : Reg → Byte
  | .b => s.regs.b
  | .c => s.regs.c
  | .d => s.regs.d
  | .e => s.regs.e
  | .h => s.regs.h
  | .l => s.regs.l
  | .a => s.regs.a

/-- The registers with `x[r] <- v` (R9, R22). -/
def Regs.set (x : Regs) (r : Reg) (v : Byte) : Regs :=
  match r with
  | .b => { x with b := v }
  | .c => { x with c := v }
  | .d => { x with d := v }
  | .e => { x with e := v }
  | .h => { x with h := v }
  | .l => { x with l := v }
  | .a => { x with a := v }

/-- `x[r] <- v` (R9, R22). -/
def State.setReg (s : State) (r : Reg) (v : Byte) : State :=
  { s with regs := s.regs.set r v }

/-- BC (R21). -/
def State.bc (s : State) : Word := wordOf s.regs.b s.regs.c

/-- DE (R21). -/
def State.de (s : State) : Word := wordOf s.regs.d s.regs.e

/-- HL, the address of operand M (R21, R23). -/
def State.hl (s : State) : Word := wordOf s.regs.h s.regs.l

/-- `rp[p]` (R9, R21, R24). -/
def State.pair (s : State) : Pair → Word
  | .b => s.bc
  | .d => s.de
  | .h => s.hl
  | .sp => s.sp

/-- `rp[p] <- v`: the high byte to `rh`, the low byte to `rl`, or all of SP (R9, R21, R24). -/
def State.setPair (s : State) (p : Pair) (v : Word) : State :=
  match p with
  | .b => { s with regs := { s.regs with b := hiByte v, c := loByte v } }
  | .d => { s with regs := { s.regs with d := hiByte v, e := loByte v } }
  | .h => { s with regs := { s.regs with h := hiByte v, l := loByte v } }
  | .sp => { s with sp := v }

/-- `next = (pc + len) mod 65536` (R9, R27). -/
def State.nextPc (s : State) (len : Nat) : Word := s.pc + BitVec.ofNat 16 len

/-- `pc <- next` (R27). -/
def State.advance (s : State) (len : Nat) : State := { s with pc := s.nextPc len }

/-- A and all five flags from an arithmetic result (R163). -/
def State.accumulate (s : State) (r : Alu) : State :=
  { s with regs := { s.regs with a := r.res }, flags := s.flags.ofAlu r }

/-- All five flags from a subtraction whose result is not kept (R210, C3). -/
def State.compareFlags (s : State) (r : Alu) : State :=
  { s with flags := s.flags.ofAlu r }

/-- A and all five flags from a logical result (R201, R204, R207). -/
def State.accumulateLogic (s : State) (res : Byte) (ac : Bool) : State :=
  { s with regs := { s.regs with a := res }, flags := s.flags.ofLogic res ac }

/-- A and CY from a rotation; no other flag (R213). -/
def State.accumulateRotated (s : State) (r : Rotated) : State :=
  { s with regs := { s.regs with a := r.res }, flags := { s.flags with cy := r.cy } }

end Sys2Proof.Machine
end

