-- ==== Sys2Proof/Machine/Ops.lean ====
section
/-! DEFINITION. The named operations over memory, the stack and the ports, and interrupt entry, the one way
this machine is taken away from its program (spec/20_memory.md R61, R69, R78, R79; spec/60_exceptions.md R328, R330). -/

namespace Sys2Proof.Machine

/-! ### Memory as data -/

/-- The byte at an address; an unlisted address reads as `Config.unwrittenByte` (R61; log 3). -/
def Memory.read : Memory → Nat → Byte
  | [], _ => Config.unwrittenByte
  | (x, v) :: rest, a => if x = a then v else Memory.read rest a

/-- Put a cell before the first one with a higher address. -/
def Memory.insertCell (a : Nat) (v : Byte) : Memory → Memory
  | [] => [(a, v)]
  | (x, w) :: rest => if a < x then (a, v) :: (x, w) :: rest else (x, w) :: Memory.insertCell a v rest

/-- Replace the byte at an address, keeping the canonical form: a byte that reads like an unlisted one is not listed (R61). -/
def Memory.write (m : Memory) (a : Nat) (v : Byte) : Memory :=
  let others := m.filter fun cell => cell.1 != a
  if v = Config.unwrittenByte then others else Memory.insertCell a v others

/-- The canonical form: addresses below 65,536 and strictly rising (R60), no cell that reads like an unlisted one. -/
def Memory.wf : Memory → Bool
  | [] => true
  | (a, v) :: rest =>
    decide (a < 65536) && decide (v ≠ Config.unwrittenByte) && rest.all (fun cell => decide (a < cell.1)) && Memory.wf rest

/-! ### Memory as the processor sees it -/

/-- Go on with the state of a next outcome; a stop stays a stop. -/
def andThen (r : Result) (f : State → Result) : Result :=
  match r with
  | .next s => f s
  | .fault e => .fault e
  | .refused e => .refused e

/-- What MEM_MAP puts at an address: the first range that holds it, RAM if none does (R78; log 11). -/
def State.region (s : State) (a : Word) : Region :=
  match s.memMap.find? fun e => decide (e.first.toNat ≤ a.toNat) && decide (a.toNat ≤ e.last.toNat) with
  | some e => e.kind
  | none => .ram

/-- The content of a location, with no bus access. -/
def State.byteAt (s : State) (a : Word) : Byte := s.mem.read a.toNat

/-- `MemRead(a, 1)` (R61, R78): content from RAM and ROM, a fresh free value from a device or where nothing is. -/
def State.load (s : State) (a : Word) : Byte × State :=
  match s.region a with
  | .ram | .rom _ => (s.byteAt a, s)
  | .device => (Config.deviceRead s.draws a, { s with draws := s.draws + 1 })
  | .absent => (Config.absentRead s.draws a, { s with draws := s.draws + 1 })

/-- `MemWrite(a, 1, v)` (R61, R78): RAM takes the byte, a device takes it as an event, an absent location loses it, and a
ROM ignores it where the platform says so; otherwise the model refuses (log 21). -/
def State.store (s : State) (a : Word) (v : Byte) : Result :=
  match s.region a with
  | .ram => .next { s with mem := s.mem.write a.toNat v }
  | .rom true => .next s
  | .rom false => .refused (.romWrite a)
  | .device => .next { s with outputs := s.outputs ++ [.device a v] }
  | .absent => .next s

/-- Two bytes from `a` (low) and `a + 1` (high), in that order (R63, R79). -/
def State.loadWord (s : State) (a : Word) : Word × State :=
  let lo := s.load a
  let hi := lo.2.load (a + 1)
  (wordOf hi.1 lo.1, hi.2)

/-! ### Stack -/

/-- Push `hi` at SP - 1, then `lo` at SP - 2, then SP <- SP - 2 (R25, R64, R79). -/
def State.pushBytes (s : State) (hi lo : Byte) : Result :=
  andThen (s.store (s.sp - 1) hi) fun s1 =>
    andThen (s1.store (s.sp - 2) lo) fun s2 =>
      .next { s2 with sp := s.sp - 2 }

/-- Push a 16-bit value (R64). -/
def State.pushWord (s : State) (w : Word) : Result := s.pushBytes (hiByte w) (loByte w)

/-- Pop the low byte from SP and the high byte from SP + 1, then SP <- SP + 2 (R25, R64, R79). -/
def State.popWord (s : State) : Word × State :=
  let r := s.loadWord s.sp
  (r.1, { r.2 with sp := s.sp + 2 })

/-! ### Ports -/

/-- `IORead(p)`: a fresh free value (R69; log 5). -/
def State.portRead (s : State) (p : Byte) : Byte × State :=
  (Config.portInput s.draws p, { s with draws := s.draws + 1 })

/-- `IOWrite(p, v)`: an output event (R69). -/
def State.portWrite (s : State) (p v : Byte) : State :=
  { s with outputs := s.outputs ++ [.port p v] }

/-! ### Interrupt entry and return -/

/-- The entry addresses of the platform's set (R70, R322); INTR goes where the supplied RST n or CALL goes (R333). -/
def entryAddress (set : InterruptSet) (source : IntSource) (supplied : SuppliedInstr) : Word :=
  match source with
  | .trap => set.trapEntry
  | .rst75 => set.rst75Entry
  | .rst65 => set.rst65Entry
  | .rst55 => set.rst55Entry
  | .intr =>
    match supplied with
    | .rst n => n.setWidth 16 <<< 3
    | .call addr => addr

/-- What taking an interrupt changes before the push: the halt ends, INTE and ei_pending are cleared, RST 7.5 clears its
latch (R328), TRAP is disarmed until a new edge (R324) and marks the next RIM (R332). -/
def State.acknowledge (s : State) (source : IntSource) : State :=
  { s with
    halted := false
    inte := false
    eiPending := false
    i75 := s.i75 && source != .rst75
    trapPending := s.trapPending && source != .trap
    trapRim := s.trapRim || source == .trap }

/-- Interrupt entry (R328, R333): acknowledge, push the address of the instruction that would have run next, go to the entry
address. Nothing else is saved. For INTR the supplied RST or CALL runs whole inside the entry, and its end is no boundary of its own: a
TRAP edge that came during the acknowledge waits for the end of the first handler instruction, the model's choice (log 20). -/
def State.interruptEntry (s : State) (source : IntSource) (supplied : SuppliedInstr) : Result :=
  andThen ((s.acknowledge source).pushWord s.pc) fun s1 =>
    .next { s1 with pc := entryAddress s.params.interrupts source supplied }

/-- The return, from a subroutine and from a handler alike: PC from the stack and nothing else (R262, R330). -/
def State.returnFromStack (s : State) : State :=
  let r := s.popWord
  { r.2 with pc := r.1 }

/-- A subroutine call: push `next`, go to the target (R252). -/
def State.callTo (s : State) (len : Nat) (target : Word) : Result :=
  andThen (s.pushWord (s.nextPc len)) fun s1 => .next { s1 with pc := target }

end Sys2Proof.Machine
end

