-- ==== Sys2Proof/Machine/Arithmetic.lean ====
section
/-! DEFINITION. Arithmetic (spec/42_arithmetic.md). The 8-bit operations work on A and write all flags, but for INR and
DCR (not CY), INX and DCX (none) and DAD (CY only) (R160). -/

namespace Sys2Proof.Machine

/-- ADD r (R163). -/
def execAddR (r : Reg) (s : State) : Result :=
  .next ((s.accumulate (add8 s.regs.a (s.reg r) false)).advance 1)

/-- ADD M (R164). -/
def execAddM (s : State) : Result :=
  let m := s.load s.hl
  .next ((m.2.accumulate (add8 s.regs.a m.1 false)).advance 1)

/-- ADI data8 (R165). -/
def execAdi (data : Byte) (s : State) : Result :=
  .next ((s.accumulate (add8 s.regs.a data false)).advance 2)

/-- ADC r (R166). -/
def execAdcR (r : Reg) (s : State) : Result :=
  .next ((s.accumulate (add8 s.regs.a (s.reg r) s.flags.cy)).advance 1)

/-- ADC M (R167). -/
def execAdcM (s : State) : Result :=
  let m := s.load s.hl
  .next ((m.2.accumulate (add8 s.regs.a m.1 s.flags.cy)).advance 1)

/-- ACI data8 (R168). -/
def execAci (data : Byte) (s : State) : Result :=
  .next ((s.accumulate (add8 s.regs.a data s.flags.cy)).advance 2)

/-- SUB r (R169). -/
def execSubR (r : Reg) (s : State) : Result :=
  .next ((s.accumulate (sub8 s.regs.a (s.reg r) false)).advance 1)

/-- SUB M (R170). -/
def execSubM (s : State) : Result :=
  let m := s.load s.hl
  .next ((m.2.accumulate (sub8 s.regs.a m.1 false)).advance 1)

/-- SUI data8 (R171). -/
def execSui (data : Byte) (s : State) : Result :=
  .next ((s.accumulate (sub8 s.regs.a data false)).advance 2)

/-- SBB r (R172). -/
def execSbbR (r : Reg) (s : State) : Result :=
  .next ((s.accumulate (sub8 s.regs.a (s.reg r) s.flags.cy)).advance 1)

/-- SBB M (R173). -/
def execSbbM (s : State) : Result :=
  let m := s.load s.hl
  .next ((m.2.accumulate (sub8 s.regs.a m.1 s.flags.cy)).advance 1)

/-- SBI data8 (R174). -/
def execSbi (data : Byte) (s : State) : Result :=
  .next ((s.accumulate (sub8 s.regs.a data s.flags.cy)).advance 2)

/-- INR r (R175): every flag but CY, from the register's new value. -/
def execInrR (r : Reg) (s : State) : Result :=
  let x := add8 (s.reg r) 1 false
  .next { (s.setReg r x.res).advance 1 with flags := s.flags.ofAluKeepCy x }

/-- INR M (R176): one read, then one write of the same address (R79). -/
def execInrM (s : State) : Result :=
  let m := s.load s.hl
  let x := add8 m.1 1 false
  andThen (m.2.store s.hl x.res) fun s1 =>
    .next { s1.advance 1 with flags := s.flags.ofAluKeepCy x }

/-- DCR r (R177): every flag but CY, from the register's new value. -/
def execDcrR (r : Reg) (s : State) : Result :=
  let x := sub8 (s.reg r) 1 false
  .next { (s.setReg r x.res).advance 1 with flags := s.flags.ofAluKeepCy x }

/-- DCR M (R178): one read, then one write of the same address (R79). -/
def execDcrM (s : State) : Result :=
  let m := s.load s.hl
  let x := sub8 m.1 1 false
  andThen (m.2.store s.hl x.res) fun s1 =>
    .next { s1.advance 1 with flags := s.flags.ofAluKeepCy x }

/-- INX rp (R179): no flag. -/
def execInx (rp : Pair) (s : State) : Result := .next ((s.setPair rp (s.pair rp + 1)).advance 1)

/-- DCX rp (R180): no flag. -/
def execDcx (rp : Pair) (s : State) : Result := .next ((s.setPair rp (s.pair rp - 1)).advance 1)

/-- DAD rp (R181): CY is the carry out of bit 15, no other flag. -/
def execDad (rp : Pair) (s : State) : Result :=
  let t := s.hl.toNat + (s.pair rp).toNat
  .next { (s.setPair .h (BitVec.ofNat 16 t)).advance 1 with flags := { s.flags with cy := decide (t > 65535) } }

/-- DAA (R182). -/
def execDaa (s : State) : Result :=
  .next ((s.accumulate (daa8 s.regs.a s.flags.ac s.flags.cy)).advance 1)

end Sys2Proof.Machine
end

