-- ==== Sys2Proof/Machine/Branch.lean ====
section
/-! DEFINITION. Branches (spec/44_branch.md). No flag is written; every target is an absolute address (R240). -/

namespace Sys2Proof.Machine

/-- A conditional jump (R243): the target if the condition holds, else the next instruction. -/
def State.jumpIf (s : State) (cond : Cond) (addr : Word) : Result :=
  if s.flags.holds cond then .next { s with pc := addr } else .next (s.advance 3)

/-- A conditional call (R253, C9): nothing is pushed when the condition is false. -/
def State.callIf (s : State) (cond : Cond) (addr : Word) : Result :=
  if s.flags.holds cond then s.callTo 3 addr else .next (s.advance 3)

/-- A conditional return (R263, C9): nothing is read when the condition is false. -/
def State.returnIf (s : State) (cond : Cond) : Result :=
  if s.flags.holds cond then .next s.returnFromStack else .next (s.advance 1)

/-- JMP addr (R242). -/
def execJmp (addr : Word) (s : State) : Result := .next { s with pc := addr }

/-- JNZ addr (R244): Z = 0. -/
def execJnz (addr : Word) (s : State) : Result := s.jumpIf .nz addr

/-- JZ addr (R245): Z = 1. -/
def execJz (addr : Word) (s : State) : Result := s.jumpIf .z addr

/-- JNC addr (R246): CY = 0. -/
def execJnc (addr : Word) (s : State) : Result := s.jumpIf .nc addr

/-- JC addr (R247): CY = 1. -/
def execJc (addr : Word) (s : State) : Result := s.jumpIf .c addr

/-- JPO addr (R248): P = 0. -/
def execJpo (addr : Word) (s : State) : Result := s.jumpIf .po addr

/-- JPE addr (R249): P = 1. -/
def execJpe (addr : Word) (s : State) : Result := s.jumpIf .pe addr

/-- JP addr (R250): S = 0. -/
def execJp (addr : Word) (s : State) : Result := s.jumpIf .p addr

/-- JM addr (R251): S = 1. -/
def execJm (addr : Word) (s : State) : Result := s.jumpIf .m addr

/-- CALL addr (R252): the address pushed is that of the next instruction. -/
def execCall (addr : Word) (s : State) : Result := s.callTo 3 addr

/-- CNZ addr (R254): Z = 0. -/
def execCnz (addr : Word) (s : State) : Result := s.callIf .nz addr

/-- CZ addr (R255): Z = 1. -/
def execCz (addr : Word) (s : State) : Result := s.callIf .z addr

/-- CNC addr (R256): CY = 0. -/
def execCnc (addr : Word) (s : State) : Result := s.callIf .nc addr

/-- CC addr (R257): CY = 1. -/
def execCc (addr : Word) (s : State) : Result := s.callIf .c addr

/-- CPO addr (R258): P = 0. -/
def execCpo (addr : Word) (s : State) : Result := s.callIf .po addr

/-- CPE addr (R259): P = 1. -/
def execCpe (addr : Word) (s : State) : Result := s.callIf .pe addr

/-- CP addr (R260): S = 0. -/
def execCp (addr : Word) (s : State) : Result := s.callIf .p addr

/-- CM addr (R261): S = 1. -/
def execCm (addr : Word) (s : State) : Result := s.callIf .m addr

/-- RET (R262, C7). -/
def execRet (s : State) : Result := .next s.returnFromStack

/-- RNZ (R264): Z = 0. -/
def execRnz (s : State) : Result := s.returnIf .nz

/-- RZ (R265): Z = 1. -/
def execRz (s : State) : Result := s.returnIf .z

/-- RNC (R266): CY = 0. -/
def execRnc (s : State) : Result := s.returnIf .nc

/-- RC (R267): CY = 1. -/
def execRc (s : State) : Result := s.returnIf .c

/-- RPO (R268): P = 0. -/
def execRpo (s : State) : Result := s.returnIf .po

/-- RPE (R269): P = 1. -/
def execRpe (s : State) : Result := s.returnIf .pe

/-- RP (R270): S = 0. -/
def execRp (s : State) : Result := s.returnIf .p

/-- RM (R271): S = 1. -/
def execRm (s : State) : Result := s.returnIf .m

/-- RST n (R272): a one-byte call to 8 * n. -/
def execRst (n : BitVec 3) (s : State) : Result := s.callTo 1 (n.setWidth 16 <<< 3)

/-- PCHL (R273): to the address HL itself, no memory is read. -/
def execPchl (s : State) : Result := .next { s with pc := s.hl }

end Sys2Proof.Machine
end

