-- ==== Sys2Proof/Machine/Control.lean ====
section
/-! DEFINITION. Stack, input and output, interrupt control and processor control (spec/45_control_stack_io.md).
No flag is written but by POP PSW (R280). The delayed enabling of EI is in Machine/Interrupts.lean. -/

namespace Sys2Proof.Machine

/-- PUSH rp, rp in {B, D, H} (R281). -/
def execPush (rp : Pair) (s : State) : Result :=
  andThen (s.pushWord (s.pair rp)) fun s1 => .next (s1.advance 1)

/-- PUSH PSW (R282): A at SP - 1, the flag byte at SP - 2 with fresh fill bits (log 4). -/
def execPushPsw (s : State) : Result :=
  andThen (s.pushBytes s.regs.a (s.flags.toByte (Config.flagFill s.draws))) fun s1 =>
    .next { s1.advance 1 with draws := s.draws + 1 }

/-- POP rp, rp in {B, D, H} (R283). -/
def execPop (rp : Pair) (s : State) : Result :=
  let r := s.popWord
  .next ((r.2.setPair rp r.1).advance 1)

/-- POP PSW (R284): the flags from the byte at SP, A from the byte at SP + 1. -/
def execPopPsw (s : State) : Result :=
  let r := s.popWord
  .next { (r.2.setReg .a (hiByte r.1)).advance 1 with flags := Flags.ofByte (loByte r.1) }

/-- XTHL (R285, C6): read SP, read SP + 1, write H to SP + 1, write L to SP, then load HL. -/
def execXthl (s : State) : Result :=
  let r := s.loadWord s.sp
  andThen (r.2.store (s.sp + 1) s.regs.h) fun s1 =>
    andThen (s1.store s.sp s.regs.l) fun s2 =>
      .next ((s2.setPair .h r.1).advance 1)

/-- SPHL (R286). -/
def execSphl (s : State) : Result := .next { s.advance 1 with sp := s.hl }

/-- IN port (R287): the environment's value, no flag. -/
def execInPort (port : Byte) (s : State) : Result :=
  let r := s.portRead port
  .next ((r.2.setReg .a r.1).advance 2)

/-- OUT port (R288). -/
def execOutPort (port : Byte) (s : State) : Result := .next ((s.portWrite port s.regs.a).advance 2)

/-- EI (R289): INTE itself changes at the end of the following instruction (R42). -/
def execEi (s : State) : Result := .next { s.advance 1 with eiPending := true }

/-- DI (R290). -/
def execDi (s : State) : Result := .next { s.advance 1 with inte := false, eiPending := false }

/-- HLT (R291): PC is already the address after it. -/
def execHlt (s : State) : Result := .next { s.advance 1 with halted := true }

/-- NOP (R292). -/
def execNop (s : State) : Result := .next (s.advance 1)

/-- RIM (R293): SID and the two input levels are drawn (U9); so is the IE bit right after EI (U6) and in the first RIM after a
TRAP (U7, R332) (log 6). -/
def execRim (s : State) : Result :=
  let n := s.draws
  let ie := if s.eiPending || s.trapRim then Config.rimEnableBit n else s.inte
  let v := rimByte (Config.sidLevel n) s.i75 (Config.rst65Level n) (Config.rst55Level n) ie s.m75 s.m65 s.m55
  .next { (s.setReg .a v).advance 1 with draws := n + 1, trapRim := false }

/-- SIM (R294): masks if bit 3, the RST 7.5 latch cleared if bit 4, SOD if bit 6. -/
def execSim (s : State) : Result :=
  let a := s.regs.a
  .next { s.advance 1 with
    m75 := if a.getLsbD 3 then a.getLsbD 2 else s.m75
    m65 := if a.getLsbD 3 then a.getLsbD 1 else s.m65
    m55 := if a.getLsbD 3 then a.getLsbD 0 else s.m55
    i75 := if a.getLsbD 4 then false else s.i75
    sod := if a.getLsbD 6 then a.getLsbD 7 else s.sod }

end Sys2Proof.Machine
end

