-- ==== Sys2Proof/Machine/DataTransfer.lean ====
section
/-! DEFINITION. Data transfer (spec/41_data_transfer.md). No instruction of the group writes a flag and each
ends with `pc <- next` (R130). -/

namespace Sys2Proof.Machine

/-- MVI r, data8 (R132). -/
def execMviR (r : Reg) (data : Byte) (s : State) : Result := .next ((s.setReg r data).advance 2)

/-- MOV r1, r2 (R133). -/
def execMovRR (r1 r2 : Reg) (s : State) : Result := .next ((s.setReg r1 (s.reg r2)).advance 1)

/-- MOV r, M (R134): the address is formed before r is written. -/
def execMovRM (r : Reg) (s : State) : Result :=
  let m := s.load s.hl
  .next ((m.2.setReg r m.1).advance 1)

/-- MOV M, r (R135). -/
def execMovMR (r : Reg) (s : State) : Result :=
  andThen (s.store s.hl (s.reg r)) fun s1 => .next (s1.advance 1)

/-- MVI M, data8 (R136). -/
def execMviM (data : Byte) (s : State) : Result :=
  andThen (s.store s.hl data) fun s1 => .next (s1.advance 2)

/-- LXI rp, data16 (R137). -/
def execLxi (rp : Pair) (data : Word) (s : State) : Result := .next ((s.setPair rp data).advance 3)

/-- LDA addr (R138). -/
def execLda (addr : Word) (s : State) : Result :=
  let m := s.load addr
  .next ((m.2.setReg .a m.1).advance 3)

/-- STA addr (R139). -/
def execSta (addr : Word) (s : State) : Result :=
  andThen (s.store addr s.regs.a) fun s1 => .next (s1.advance 3)

/-- LHLD addr (R140): L from addr first, then H from addr + 1. -/
def execLhld (addr : Word) (s : State) : Result :=
  let m := s.loadWord addr
  .next ((m.2.setPair .h m.1).advance 3)

/-- SHLD addr (R141): L to addr first, then H to addr + 1. -/
def execShld (addr : Word) (s : State) : Result :=
  andThen (s.store addr s.regs.l) fun s1 =>
    andThen (s1.store (addr + 1) s.regs.h) fun s2 => .next (s2.advance 3)

/-- LDAX rp, rp in {B, D} (R142). -/
def execLdax (rp : Pair) (s : State) : Result :=
  let m := s.load (s.pair rp)
  .next ((m.2.setReg .a m.1).advance 1)

/-- STAX rp, rp in {B, D} (R143). -/
def execStax (rp : Pair) (s : State) : Result :=
  andThen (s.store (s.pair rp) s.regs.a) fun s1 => .next (s1.advance 1)

/-- XCHG (R144): all four registers at once. -/
def execXchg (s : State) : Result := .next (((s.setPair .h s.de).setPair .d s.hl).advance 1)

end Sys2Proof.Machine
end

