-- ==== Sys2Proof/Machine/Logical.lean ====
section
/-! DEFINITION. Logical operations, compares, rotates, complement and carry control (spec/43_logical.md, R200). -/

namespace Sys2Proof.Machine

/-- ANA r (R201): CY cleared, AC set. -/
def execAnaR (r : Reg) (s : State) : Result :=
  .next ((s.accumulateLogic (s.regs.a &&& s.reg r) true).advance 1)

/-- ANA M (R202). -/
def execAnaM (s : State) : Result :=
  let m := s.load s.hl
  .next ((m.2.accumulateLogic (s.regs.a &&& m.1) true).advance 1)

/-- ANI data8 (R203). -/
def execAni (data : Byte) (s : State) : Result :=
  .next ((s.accumulateLogic (s.regs.a &&& data) true).advance 2)

/-- XRA r (R204): CY and AC cleared. -/
def execXraR (r : Reg) (s : State) : Result :=
  .next ((s.accumulateLogic (s.regs.a ^^^ s.reg r) false).advance 1)

/-- XRA M (R205). -/
def execXraM (s : State) : Result :=
  let m := s.load s.hl
  .next ((m.2.accumulateLogic (s.regs.a ^^^ m.1) false).advance 1)

/-- XRI data8 (R206). -/
def execXri (data : Byte) (s : State) : Result :=
  .next ((s.accumulateLogic (s.regs.a ^^^ data) false).advance 2)

/-- ORA r (R207): CY and AC cleared. -/
def execOraR (r : Reg) (s : State) : Result :=
  .next ((s.accumulateLogic (s.regs.a ||| s.reg r) false).advance 1)

/-- ORA M (R208). -/
def execOraM (s : State) : Result :=
  let m := s.load s.hl
  .next ((m.2.accumulateLogic (s.regs.a ||| m.1) false).advance 1)

/-- ORI data8 (R209). -/
def execOri (data : Byte) (s : State) : Result :=
  .next ((s.accumulateLogic (s.regs.a ||| data) false).advance 2)

/-- CMP r (R210): the flags of SUB, A not written. -/
def execCmpR (r : Reg) (s : State) : Result :=
  .next ((s.compareFlags (sub8 s.regs.a (s.reg r) false)).advance 1)

/-- CMP M (R211, C3). -/
def execCmpM (s : State) : Result :=
  let m := s.load s.hl
  .next ((m.2.compareFlags (sub8 s.regs.a m.1 false)).advance 1)

/-- CPI data8 (R212, C3). -/
def execCpi (data : Byte) (s : State) : Result :=
  .next ((s.compareFlags (sub8 s.regs.a data false)).advance 2)

/-- RLC (R213). -/
def execRlc (s : State) : Result := .next ((s.accumulateRotated (rotateLeft s.regs.a)).advance 1)

/-- RRC (R214). -/
def execRrc (s : State) : Result := .next ((s.accumulateRotated (rotateRight s.regs.a)).advance 1)

/-- RAL (R215). -/
def execRal (s : State) : Result :=
  .next ((s.accumulateRotated (rotateLeftThroughCarry s.regs.a s.flags.cy)).advance 1)

/-- RAR (R216, C4). -/
def execRar (s : State) : Result :=
  .next ((s.accumulateRotated (rotateRightThroughCarry s.regs.a s.flags.cy)).advance 1)

/-- CMA (R217): no flag. -/
def execCma (s : State) : Result := .next ((s.setReg .a (~~~s.regs.a)).advance 1)

/-- CMC (R218). -/
def execCmc (s : State) : Result := .next { s.advance 1 with flags := { s.flags with cy := !s.flags.cy } }

/-- STC (R219). -/
def execStc (s : State) : Result := .next { s.advance 1 with flags := { s.flags with cy := true } }

end Sys2Proof.Machine
end

