-- ==== Sys2Proof/WellFormed.lean ====
section
/-! DEFINITION. Which instruction terms name an instruction of the 8085: the members of operand class
`rp` depend on the instruction (spec/10_state.md R24). Every other operand is legal at every value (R101). -/

namespace Sys2Proof

/-- LDAX and STAX take B or D only (R24, R142, R143). -/
def Pair.isIndirect : Pair → Bool
  | .b | .d => true
  | .h | .sp => false

/-- PUSH and POP take B, D or H; PSW has rows of its own (R24, R281, R283). -/
def Pair.isStackable : Pair → Bool
  | .b | .d | .h => true
  | .sp => false

/-- The check of R24. A term it refuses has no encoding, and the decoder never gives one (log 16). -/
def Instr.wellFormed : Instr → Bool
  | .ldax pair | .stax pair => pair.isIndirect
  | .push pair | .pop pair => pair.isStackable
  | _ => true

end Sys2Proof
end

