-- ==== Sys2Proof/Decode.lean ====
section
/-! DEFINITION. The decoder, by the procedure of spec/30_encoding.md R99, total on any bytes and refusing by
name; and the encoder, by the formats of R91 and the field codes of R92 to R95. -/

namespace Sys2Proof

/-! ### Field codes -/

/-- R92: the register of a 3-bit code; 110 is the M operand and no register. -/
def regOfCode (code : BitVec 3) : Option Reg :=
  match code.toNat with
  | 0 => some .b
  | 1 => some .c
  | 2 => some .d
  | 3 => some .e
  | 4 => some .h
  | 5 => some .l
  | 6 => none
  | _ => some .a

/-- R92: the 3-bit code of a register. -/
def regCode : Reg → BitVec 3
  | .b => 0b000
  | .c => 0b001
  | .d => 0b010
  | .e => 0b011
  | .h => 0b100
  | .l => 0b101
  | .a => 0b111

/-- R93, first row: the pair of a 2-bit code in LXI, INX, DCX and DAD. -/
def pairOfCode (code : BitVec 2) : Pair :=
  match code.toNat with
  | 0 => .b
  | 1 => .d
  | 2 => .h
  | _ => .sp

/-- R93: the 2-bit code of a pair. -/
def pairCode : Pair → BitVec 2
  | .b => 0b00
  | .d => 0b01
  | .h => 0b10
  | .sp => 0b11

/-! ### The first byte -/

/-- What a first byte says: no instruction (R100), or an instruction and how many operand bytes it needs (R90). -/
inductive FirstByte where
  | unassigned
  | one (i : Instr)
  | two (ofByte : Byte → Instr)
  | three (ofWord : Word → Instr)

/-- R99, `x = 00`. -/
def firstByte00 (d s : BitVec 3) : FirstByte :=
  let rp := pairOfCode (d.extractLsb' 1 2)
  let q := d.getLsbD 0
  match s.toNat with
  | 0 =>
    match d.toNat with
    | 0 => .one .nop
    | 4 => .one .rim
    | 6 => .one .sim
    | _ => .unassigned
  | 1 => if q then .one (.dad rp) else .three (.lxi rp)
  | 2 =>
    match d.toNat with
    | 0 => .one (.stax .b)
    | 1 => .one (.ldax .b)
    | 2 => .one (.stax .d)
    | 3 => .one (.ldax .d)
    | 4 => .three .shld
    | 5 => .three .lhld
    | 6 => .three .sta
    | _ => .three .lda
  | 3 => if q then .one (.dcx rp) else .one (.inx rp)
  | 4 =>
    match regOfCode d with
    | some r => .one (.inrR r)
    | none => .one .inrM
  | 5 =>
    match regOfCode d with
    | some r => .one (.dcrR r)
    | none => .one .dcrM
  | 6 =>
    match regOfCode d with
    | some r => .two (.mviR r)
    | none => .two .mviM
  | _ =>
    match d.toNat with
    | 0 => .one .rlc
    | 1 => .one .rrc
    | 2 => .one .ral
    | 3 => .one .rar
    | 4 => .one .daa
    | 5 => .one .cma
    | 6 => .one .stc
    | _ => .one .cmc

/-- R99, `x = 01`: the moves, and HLT in the slot of the move that does not exist. -/
def firstByte01 (d s : BitVec 3) : FirstByte :=
  match regOfCode d, regOfCode s with
  | some r1, some r2 => .one (.movRR r1 r2)
  | some r1, none => .one (.movRM r1)
  | none, some r2 => .one (.movMR r2)
  | none, none => .one .hlt

/-- R99, `x = 10`: the eight accumulator operations on a register or on M. -/
def firstByte10 (d s : BitVec 3) : FirstByte :=
  match regOfCode s with
  | some r =>
    match d.toNat with
    | 0 => .one (.addR r)
    | 1 => .one (.adcR r)
    | 2 => .one (.subR r)
    | 3 => .one (.sbbR r)
    | 4 => .one (.anaR r)
    | 5 => .one (.xraR r)
    | 6 => .one (.oraR r)
    | _ => .one (.cmpR r)
  | none =>
    match d.toNat with
    | 0 => .one .addM
    | 1 => .one .adcM
    | 2 => .one .subM
    | 3 => .one .sbbM
    | 4 => .one .anaM
    | 5 => .one .xraM
    | 6 => .one .oraM
    | _ => .one .cmpM

/-- R99, `x = 11`. -/
def firstByte11 (d s : BitVec 3) : FirstByte :=
  let rp := pairOfCode (d.extractLsb' 1 2)
  let q := d.getLsbD 0
  match s.toNat with
  | 0 =>
    match d.toNat with
    | 0 => .one .rnz
    | 1 => .one .rz
    | 2 => .one .rnc
    | 3 => .one .rc
    | 4 => .one .rpo
    | 5 => .one .rpe
    | 6 => .one .rp
    | _ => .one .rm
  | 1 =>
    if q then
      match rp with
      | .b => .one .ret
      | .d => .unassigned
      | .h => .one .pchl
      | .sp => .one .sphl
    else
      match rp with
      | .sp => .one .popPsw
      | rp => .one (.pop rp)
  | 2 =>
    match d.toNat with
    | 0 => .three .jnz
    | 1 => .three .jz
    | 2 => .three .jnc
    | 3 => .three .jc
    | 4 => .three .jpo
    | 5 => .three .jpe
    | 6 => .three .jp
    | _ => .three .jm
  | 3 =>
    match d.toNat with
    | 0 => .three .jmp
    | 1 => .unassigned
    | 2 => .two .outPort
    | 3 => .two .inPort
    | 4 => .one .xthl
    | 5 => .one .xchg
    | 6 => .one .di
    | _ => .one .ei
  | 4 =>
    match d.toNat with
    | 0 => .three .cnz
    | 1 => .three .cz
    | 2 => .three .cnc
    | 3 => .three .cc
    | 4 => .three .cpo
    | 5 => .three .cpe
    | 6 => .three .cp
    | _ => .three .cm
  | 5 =>
    if q then
      match rp with
      | .b => .three .call
      | _ => .unassigned
    else
      match rp with
      | .sp => .one .pushPsw
      | rp => .one (.push rp)
  | 6 =>
    match d.toNat with
    | 0 => .two .adi
    | 1 => .two .aci
    | 2 => .two .sui
    | 3 => .two .sbi
    | 4 => .two .ani
    | 5 => .two .xri
    | 6 => .two .ori
    | _ => .two .cpi
  | _ => .one (.rst d)

/-- The first-byte map (R98, R99): `x = b[7:6]`, `d = b[5:3]`, `s = b[2:0]`. -/
def firstByte (b : Byte) : FirstByte :=
  let d : BitVec 3 := b.extractLsb' 3 3
  let s : BitVec 3 := b.extractLsb' 0 3
  match (b.extractLsb' 6 2).toNat with
  | 0 => firstByte00 d s
  | 1 => firstByte01 d s
  | 2 => firstByte10 d s
  | _ => firstByte11 d s

/-- R90: the length in bytes that byte 1 determines; 0 where it selects no instruction. -/
def instrLength (b : Byte) : Nat :=
  match firstByte b with
  | .unassigned => 0
  | .one _ => 1
  | .two _ => 2
  | .three _ => 3

/-! ### The decoder -/

/-- Why a byte list holds no instruction. -/
inductive DecodeError where
  /-- byte 1 is one of the ten values that select no instruction (R100) -/
  | unassigned (byte1 : Byte)
  /-- the instruction needs more bytes than the list holds (R90) -/
  | truncated (byte1 : Byte)
  /-- the list is empty -/
  | empty
deriving DecidableEq, Repr

/-- An instruction and the bytes after it, or a refusal. -/
inductive Decoded where
  | instr (i : Instr) (rest : List Byte)
  | rejected (why : DecodeError)
deriving DecidableEq, Repr

/-- Read one instruction from the front of a byte list; byte 2 is the low half of a 16-bit operand (R62, R96). -/
def decode : List Byte → Decoded
  | [] => .rejected .empty
  | b1 :: rest =>
    match firstByte b1, rest with
    | .unassigned, _ => .rejected (.unassigned b1)
    | .one i, rest => .instr i rest
    | .two f, b2 :: rest => .instr (f b2) rest
    | .three f, b2 :: b3 :: rest => .instr (f (wordOf b3 b2)) rest
    | .two _, [] => .rejected (.truncated b1)
    | .three _, _ => .rejected (.truncated b1)

/-- The instruction of a decoding, if any. -/
def Decoded.toOption : Decoded → Option Instr
  | .instr i _ => some i
  | .rejected _ => none

/-- The three bytes of a table word: bits at or above `nbits` are 0, the first byte is the least significant. -/
def tableWordBytes (nbits w : Nat) : List Byte :=
  let v := w % 2 ^ nbits
  [BitVec.ofNat 8 v, BitVec.ofNat 8 (v / 256), BitVec.ofNat 8 (v / 65536)]

/-- The instruction the decoder reads from a word numbered as spec/opcode_table.json numbers its bits. -/
def decodeTableWord (nbits w : Nat) : Option Instr :=
  (decode (tableWordBytes nbits w)).toOption

/-! ### The encoder -/

/-- Format R-DS of R91. -/
def encDS (x : BitVec 2) (d s : BitVec 3) : Byte := x ++ d ++ s

/-- Format R-RP of R91: two bits, the pair's code, four bits. -/
def encRP (x : BitVec 2) (rp : Pair) (low : BitVec 4) : Byte := x ++ pairCode rp ++ low

/-- Formats I16 and I16-RP of R91: the low byte of the operand first. -/
def enc16 (b : Byte) (w : Word) : List Byte := [b, loByte w, hiByte w]

/-- The bytes of an instruction (R91 to R96); for the four rows R24 restricts it means something only where `wellFormed` holds. -/
def encode : Instr → List Byte
  | .mviR r v => [encDS 0b00 (regCode r) 0b110, v]
  | .movRR r1 r2 => [encDS 0b01 (regCode r1) (regCode r2)]
  | .movRM r => [encDS 0b01 (regCode r) 0b110]
  | .movMR r => [encDS 0b01 0b110 (regCode r)]
  | .mviM v => [0x36, v]
  | .lxi rp w => enc16 (encRP 0b00 rp 0b0001) w
  | .lda a => enc16 0x3A a
  | .sta a => enc16 0x32 a
  | .lhld a => enc16 0x2A a
  | .shld a => enc16 0x22 a
  | .ldax rp => [encRP 0b00 rp 0b1010]
  | .stax rp => [encRP 0b00 rp 0b0010]
  | .xchg => [0xEB]
  | .addR r => [encDS 0b10 0b000 (regCode r)]
  | .addM => [0x86]
  | .adi v => [0xC6, v]
  | .adcR r => [encDS 0b10 0b001 (regCode r)]
  | .adcM => [0x8E]
  | .aci v => [0xCE, v]
  | .subR r => [encDS 0b10 0b010 (regCode r)]
  | .subM => [0x96]
  | .sui v => [0xD6, v]
  | .sbbR r => [encDS 0b10 0b011 (regCode r)]
  | .sbbM => [0x9E]
  | .sbi v => [0xDE, v]
  | .inrR r => [encDS 0b00 (regCode r) 0b100]
  | .inrM => [0x34]
  | .dcrR r => [encDS 0b00 (regCode r) 0b101]
  | .dcrM => [0x35]
  | .inx rp => [encRP 0b00 rp 0b0011]
  | .dcx rp => [encRP 0b00 rp 0b1011]
  | .dad rp => [encRP 0b00 rp 0b1001]
  | .daa => [0x27]
  | .anaR r => [encDS 0b10 0b100 (regCode r)]
  | .anaM => [0xA6]
  | .ani v => [0xE6, v]
  | .xraR r => [encDS 0b10 0b101 (regCode r)]
  | .xraM => [0xAE]
  | .xri v => [0xEE, v]
  | .oraR r => [encDS 0b10 0b110 (regCode r)]
  | .oraM => [0xB6]
  | .ori v => [0xF6, v]
  | .cmpR r => [encDS 0b10 0b111 (regCode r)]
  | .cmpM => [0xBE]
  | .cpi v => [0xFE, v]
  | .rlc => [0x07]
  | .rrc => [0x0F]
  | .ral => [0x17]
  | .rar => [0x1F]
  | .cma => [0x2F]
  | .cmc => [0x3F]
  | .stc => [0x37]
  | .jmp a => enc16 0xC3 a
  | .jnz a => enc16 0xC2 a
  | .jz a => enc16 0xCA a
  | .jnc a => enc16 0xD2 a
  | .jc a => enc16 0xDA a
  | .jpo a => enc16 0xE2 a
  | .jpe a => enc16 0xEA a
  | .jp a => enc16 0xF2 a
  | .jm a => enc16 0xFA a
  | .call a => enc16 0xCD a
  | .cnz a => enc16 0xC4 a
  | .cz a => enc16 0xCC a
  | .cnc a => enc16 0xD4 a
  | .cc a => enc16 0xDC a
  | .cpo a => enc16 0xE4 a
  | .cpe a => enc16 0xEC a
  | .cp a => enc16 0xF4 a
  | .cm a => enc16 0xFC a
  | .ret => [0xC9]
  | .rnz => [0xC0]
  | .rz => [0xC8]
  | .rnc => [0xD0]
  | .rc => [0xD8]
  | .rpo => [0xE0]
  | .rpe => [0xE8]
  | .rp => [0xF0]
  | .rm => [0xF8]
  | .rst n => [encDS 0b11 n 0b111]
  | .pchl => [0xE9]
  | .push rp => [encRP 0b11 rp 0b0101]
  | .pushPsw => [0xF5]
  | .pop rp => [encRP 0b11 rp 0b0001]
  | .popPsw => [0xF1]
  | .xthl => [0xE3]
  | .sphl => [0xF9]
  | .inPort p => [0xDB, p]
  | .outPort p => [0xD3, p]
  | .ei => [0xFB]
  | .di => [0xF3]
  | .hlt => [0x76]
  | .nop => [0x00]
  | .rim => [0x20]
  | .sim => [0x30]

end Sys2Proof
end

