-- ==== Sys2Proof/Machine/Fetch.lean ====
section
/-! DEFINITION. Fetching an instruction (spec/00_scope.md R10; spec/30_encoding.md R90): byte 1 at PC decides how many
bytes follow, at PC + 1 and PC + 2 modulo 65536 (spec/10_state.md R27). -/

namespace Sys2Proof.Machine

/-- R94: the condition of a 3-bit code. -/
def condOfCode (code : BitVec 3) : Cond :=
  match code.toNat with
  | 0 => .nz
  | 1 => .z
  | 2 => .nc
  | 3 => .c
  | 4 => .po
  | 5 => .pe
  | 6 => .p
  | _ => .m

/-- R243, U14: byte 1 is a conditional jump (`11 ccc 010`) or call (`11 ccc 100`) whose condition is false, so that byte 3 is not
read (log 15). -/
def skipsByte3 (b1 : Byte) (f : Flags) : Bool :=
  let s : BitVec 3 := b1.extractLsb' 0 3
  b1.extractLsb' 6 2 == (0b11 : BitVec 2) && (s == 0b010 || s == 0b100) && !f.holds (condOfCode (b1.extractLsb' 3 3))

/-- The bytes of the instruction at PC, read at ascending addresses, and the state after the reads (R10, R65; log 15). A byte 3 that is
not read keeps its place in the list with the content of its location, which such an instruction uses for nothing. -/
def State.fetchBytes (s : State) : List Byte × State :=
  let r1 := s.load s.pc
  match instrLength r1.1 with
  | 2 =>
    let r2 := r1.2.load (s.pc + 1)
    ([r1.1, r2.1], r2.2)
  | 3 =>
    let r2 := r1.2.load (s.pc + 1)
    let r3 := if skipsByte3 r1.1 s.flags then (s.byteAt (s.pc + 2), r2.2) else r2.2.load (s.pc + 2)
    ([r1.1, r2.1, r3.1], r3.2)
  | _ => ([r1.1], r1.2)

/-- ILLEGAL_OPCODE (R6, D3): a byte that selects no instruction stays refused, or acts as the platform says (log 12). -/
def resolveIllegal (policy : IllegalOpcode) (d : Decoded) : Decoded :=
  match policy, d with
  | .nop, .rejected _ => .instr .nop []
  | _, _ => d

/-- Fetch and decode. -/
def State.fetch (s : State) : Decoded × State :=
  (resolveIllegal s.params.illegalOpcode (decode s.fetchBytes.1), s.fetchBytes.2)

/-- The byte that a refused fetch names (R100). -/
def refusedByte : DecodeError → Byte
  | .unassigned b => b
  | .truncated b => b
  | .empty => 0

/-- The state with three bytes at PC, PC + 1, PC + 2 as plain RAM, running and with a quiet environment, so that the next step
fetches them. From `State.reset` only memory changes (log 17). -/
def State.withCode (s : State) (b1 b2 b3 : Byte) : State :=
  { s with
    mem := ((s.mem.write s.pc.toNat b1).write (s.pc + 1).toNat b2).write (s.pc + 2).toNat b3
    memMap := []
    inputs := []
    halted := false }

end Sys2Proof.Machine
end

