-- ==== Sys2Proof/Machine/Interrupts.lean ====
section
/-! DEFINITION. The end of an instruction: the delayed enabling of EI (spec/10_state.md R42), and the boundary at which an
interrupt is recognised (spec/60_exceptions.md R322 to R326, R334). -/

namespace Sys2Proof.Machine

/-- A boundary at which the environment does nothing: every line low, no edge, no reset. The premise "no interrupt is ever
requested" of D14 (log 8). -/
def BoundaryInput.quiet : BoundaryInput where
  reset := none
  trapEdge := false
  trapLevel := false
  rst75Edge := false
  rst65 := false
  rst55 := false
  intr := false
  supplied := .rst 0

/-- What the environment does in this step; a queue that has run out is quiet (log 8). -/
def State.boundaryInput (s : State) : BoundaryInput := s.inputs.head?.getD .quiet

/-- R42: what completing an instruction does to INTE, given `ei_pending` as it was when the instruction began. EI and DI have done
their part themselves. -/
def State.endInstruction (s : State) (i : Instr) (pendingBefore : Bool) : State :=
  match i with
  | .ei | .di => s
  | _ => if pendingBefore then { s with inte := true, eiPending := false } else s

/-- R326: no interrupt is recognised at the boundary after EI or DI, TRAP included (D15). -/
def recognisesAfter : Instr → Bool
  | .ei | .di => false
  | _ => true

/-- The platform has this interrupt input (R6 INTERRUPTS; log 25). -/
def State.hasInput (s : State) (source : IntSource) : Bool := s.params.interrupts.priority.contains source

/-- The lines at a boundary: an RST 7.5 edge sets its latch (R324), a TRAP edge arms the request while the level stays high
(R324; log 9), each where the platform has the input. The queue moves on. -/
def State.sampleLines (s : State) (inp : BoundaryInput) : State :=
  { s with
    i75 := s.i75 || (inp.rst75Edge && s.hasInput .rst75)
    trapPending := (s.trapPending || (inp.trapEdge && s.hasInput .trap)) && inp.trapLevel
    inputs := s.inputs.tail }

/-- The source is requested and enabled (R323), in the state whose lines have been sampled. -/
def State.requested (s : State) (inp : BoundaryInput) : IntSource → Bool
  | .trap => s.trapPending
  | .rst75 => s.inte && s.i75 && !s.m75
  | .rst65 => s.inte && inp.rst65 && !s.m65
  | .rst55 => s.inte && inp.rst55 && !s.m55
  | .intr => s.inte && inp.intr

/-- The enabled request of highest priority (R325) among the inputs the platform has. -/
def State.enabledRequest (s : State) (inp : BoundaryInput) : Option IntSource :=
  s.params.interrupts.priority.find? (s.requested inp)

/-- The boundary that ends a step: sample the lines and, where recognition is allowed, take the enabled request (R326, R328). While
halted every step is such a boundary (R334). -/
def State.atBoundary (s : State) (recognise : Bool) : Result :=
  let inp := s.boundaryInput
  let s1 := s.sampleLines inp
  if recognise then
    match s1.enabledRequest inp with
    | some source => s1.interruptEntry source inp.supplied
    | none => .next s1
  else .next s1

end Sys2Proof.Machine
end

