-- ==== Sys2Proof/Machine/Reset.lean ====
section
/-! DEFINITION. A reset that arrives while the machine runs or is halted (spec/70_reset_and_hazards.md R360, R361): it may abandon an
instruction, or the interrupt entry after it, part-way through its writes, whose order is R79 of spec/20_memory.md (log 13). -/

namespace Sys2Proof.Machine

/-- A write an instruction makes: to memory or to a port. -/
inductive BusWrite where
  | mem (addr : Word) (value : Byte)
  | port (port : Byte) (value : Byte)
deriving DecidableEq, Repr

/-- The two writes of a push, high byte first (R79). -/
def pushWrites (s : State) (hi lo : Byte) : List BusWrite :=
  [.mem (s.sp - 1) hi, .mem (s.sp - 2) lo]

/-- The writes of a call, if it is taken (R79). -/
def callWrites (s : State) (len : Nat) (taken : Bool) : List BusWrite :=
  if taken then pushWrites s (hiByte (s.nextPc len)) (loByte (s.nextPc len)) else []

/-- R79: the writes an instruction makes after its fetch, in order, from the state in which it starts. -/
def writesOf (i : Instr) (s : State) : List BusWrite :=
  match i with
  | .movMR r => [.mem s.hl (s.reg r)]
  | .mviM v => [.mem s.hl v]
  | .inrM => [.mem s.hl ((s.load s.hl).1 + 1)]
  | .dcrM => [.mem s.hl ((s.load s.hl).1 - 1)]
  | .sta a => [.mem a s.regs.a]
  | .shld a => [.mem a s.regs.l, .mem (a + 1) s.regs.h]
  | .stax rp => [.mem (s.pair rp) s.regs.a]
  | .push rp => pushWrites s (hiByte (s.pair rp)) (loByte (s.pair rp))
  | .pushPsw => pushWrites s s.regs.a (s.flags.toByte (Config.flagFill s.draws))
  | .xthl => [.mem (s.sp + 1) s.regs.h, .mem s.sp s.regs.l]
  | .call _ => callWrites s 3 true
  | .cnz _ => callWrites s 3 (s.flags.holds .nz)
  | .cz _ => callWrites s 3 (s.flags.holds .z)
  | .cnc _ => callWrites s 3 (s.flags.holds .nc)
  | .cc _ => callWrites s 3 (s.flags.holds .c)
  | .cpo _ => callWrites s 3 (s.flags.holds .po)
  | .cpe _ => callWrites s 3 (s.flags.holds .pe)
  | .cp _ => callWrites s 3 (s.flags.holds .p)
  | .cm _ => callWrites s 3 (s.flags.holds .m)
  | .rst _ => callWrites s 1 true
  | .outPort p => [.port p s.regs.a]
  | _ => []

/-- One write on the bus. -/
def State.busWrite (s : State) : BusWrite → Result
  | .mem a v => s.store a v
  | .port p v => .next (s.portWrite p v)

/-- Writes in order. -/
def State.busWrites : List BusWrite → State → Result
  | [], s => .next s
  | w :: ws, s => andThen (s.busWrite w) (State.busWrites ws)

/-- The reset procedure (R360): PC, the interrupt state and SOD as the spec says, memory unchanged, registers, flags and SP free values
again (R361, D11). That it ends the mark of the first RIM after a TRAP, so that a RIM after the reset reports INTE, is the model's choice
(R332, U7; log 6), and so is the end of the TRAP request (log 9). -/
def State.applyReset (s : State) : State :=
  let n := s.draws
  { s with
    regs :=
      { a := Config.resetRegister n .a
        b := Config.resetRegister n .b
        c := Config.resetRegister n .c
        d := Config.resetRegister n .d
        e := Config.resetRegister n .e
        h := Config.resetRegister n .h
        l := Config.resetRegister n .l }
    flags :=
      { s := (Config.resetFlags n).getLsbD 4
        z := (Config.resetFlags n).getLsbD 3
        ac := (Config.resetFlags n).getLsbD 2
        p := (Config.resetFlags n).getLsbD 1
        cy := (Config.resetFlags n).getLsbD 0 }
    sp := Config.resetSp n
    pc := s.params.resetPc
    inte := false
    eiPending := false
    halted := false
    m75 := true
    m65 := true
    m55 := true
    i75 := false
    sod := false
    trapPending := false
    trapRim := false
    inputs := s.inputs.tail
    draws := n + 1 }

/-- The writes of the boundary that follows: the push of an interrupt entry if one is taken there, none otherwise (R328, R333). -/
def State.boundaryWrites (s : State) (recognise : Bool) : List BusWrite :=
  let inp := s.boundaryInput
  if recognise && ((s.sampleLines inp).enabledRequest inp).isSome then pushWrites s (hiByte s.pc) (loByte s.pc) else []

/-- The boundary of a step abandoned by a reset when `done` of its writes have been made (R361; log 13). -/
def State.resetAtBoundary (s : State) (recognise : Bool) (done : Nat) : Result :=
  andThen (State.busWrites ((s.boundaryWrites recognise).take done) s) fun t => .next t.applyReset

/-- A reset in the step that starts in `s`, when `done` writes have been made in it, those of the instruction first and then those of an
interrupt entry at its boundary (R361; log 13). A halted machine has a boundary only (R334). -/
def State.resetDuring (s : State) (done : Nat) : Result :=
  if s.halted then s.resetAtBoundary true done
  else
    match s.fetch with
    | (.instr i _, s1) =>
      if done ≤ (writesOf i s1).length then
        andThen (State.busWrites ((writesOf i s1).take done) s1) fun s2 => .next s2.applyReset
      else
        andThen (exec i s1) fun t =>
          (t.endInstruction i s.eiPending).resetAtBoundary (recognisesAfter i) (done - (writesOf i s1).length)
    | (.rejected _, s1) => .next s1.applyReset

end Sys2Proof.Machine
end

