-- ==== Sys2Proof/Machine/Step.lean ====
section
/-! DEFINITION. One step of the machine (spec/00_scope.md R10): fetch, decode, perform the instruction, the bookkeeping of R42, then the
boundary at which an interrupt may be taken. -/

namespace Sys2Proof.Machine

/-- One instruction from fetch to boundary (R10). A first byte that selects no instruction is refused
(R100) unless the platform's ILLEGAL_OPCODE says otherwise. -/
def State.runInstruction (s : State) : Result :=
  match s.fetch with
  | (.instr i _, s1) =>
    andThen (exec i s1) fun t => (t.endInstruction i s.eiPending).atBoundary (recognisesAfter i)
  | (.rejected why, _) => .refused (.illegalOpcode (refusedByte why))

/-- One step: a reset if one arrives (R361), else one boundary while halted (R334), else one instruction (R10). -/
def step (s : State) : Host.Outcome State Fault Refusal :=
  match s.boundaryInput.reset with
  | some done => s.resetDuring done
  | none => if s.halted then s.atBoundary true else s.runInstruction

/-- `s` with the instruction of a table word stored where the next step fetches (log 17). -/
def State.withFetchWord (s : State) (nbits w : Nat) : State :=
  match tableWordBytes nbits w with
  | [b1, b2, b3] => s.withCode b1 b2 b3
  | _ => s

end Sys2Proof.Machine
end

