-- ==== Sys2Proof/Machine/Timing.lean ====
section
/-! DEFINITION. Machine cycles and states of every instruction (spec/70_reset_and_hazards.md R372 to R374). No rule depends on
them and the model keeps no clock (D20; log 18): they are functions for claims about elapsed time. -/

namespace Sys2Proof.Machine

/-- Machine cycles and states (clock periods) of one execution. For HLT they are the cycles and states that enter the
halt (R374). -/
structure Timing where
  cycles : Nat
  states : Nat
deriving DecidableEq, Repr

/-- R373: the first figures where the condition is false, the second where it is true. -/
def Timing.ofCond (holds : Bool) (notTaken taken : Timing) : Timing := if holds then taken else notTaken

/-- A conditional jump: 2/3 cycles, 7/10 states (R372). -/
def jumpTiming (f : Flags) (cond : Cond) : Timing := .ofCond (f.holds cond) ⟨2, 7⟩ ⟨3, 10⟩

/-- A conditional call: 2/5 cycles, 9/18 states (R372). -/
def callTiming (f : Flags) (cond : Cond) : Timing := .ofCond (f.holds cond) ⟨2, 9⟩ ⟨5, 18⟩

/-- A conditional return: 1/3 cycles, 6/12 states (R372). -/
def returnTiming (f : Flags) (cond : Cond) : Timing := .ofCond (f.holds cond) ⟨1, 6⟩ ⟨3, 12⟩

/-- The table of R372, with the flags as they stand when the instruction executes. -/
def timing (f : Flags) : Instr → Timing
  | .mviR _ _ => ⟨2, 7⟩
  | .movRR _ _ => ⟨1, 4⟩
  | .movRM _ | .movMR _ => ⟨2, 7⟩
  | .mviM _ => ⟨3, 10⟩
  | .lxi _ _ => ⟨3, 10⟩
  | .lda _ | .sta _ => ⟨4, 13⟩
  | .lhld _ | .shld _ => ⟨5, 16⟩
  | .ldax _ | .stax _ => ⟨2, 7⟩
  | .xchg => ⟨1, 4⟩
  | .addR _ | .adcR _ | .subR _ | .sbbR _ => ⟨1, 4⟩
  | .addM | .adcM | .subM | .sbbM => ⟨2, 7⟩
  | .adi _ | .aci _ | .sui _ | .sbi _ => ⟨2, 7⟩
  | .inrR _ | .dcrR _ => ⟨1, 4⟩
  | .inrM | .dcrM => ⟨3, 10⟩
  | .inx _ | .dcx _ => ⟨1, 6⟩
  | .dad _ => ⟨3, 10⟩
  | .daa => ⟨1, 4⟩
  | .anaR _ | .xraR _ | .oraR _ | .cmpR _ => ⟨1, 4⟩
  | .anaM | .xraM | .oraM | .cmpM => ⟨2, 7⟩
  | .ani _ | .xri _ | .ori _ | .cpi _ => ⟨2, 7⟩
  | .rlc | .rrc | .ral | .rar | .cma | .cmc | .stc => ⟨1, 4⟩
  | .jmp _ => ⟨3, 10⟩
  | .jnz _ => jumpTiming f .nz
  | .jz _ => jumpTiming f .z
  | .jnc _ => jumpTiming f .nc
  | .jc _ => jumpTiming f .c
  | .jpo _ => jumpTiming f .po
  | .jpe _ => jumpTiming f .pe
  | .jp _ => jumpTiming f .p
  | .jm _ => jumpTiming f .m
  | .call _ => ⟨5, 18⟩
  | .cnz _ => callTiming f .nz
  | .cz _ => callTiming f .z
  | .cnc _ => callTiming f .nc
  | .cc _ => callTiming f .c
  | .cpo _ => callTiming f .po
  | .cpe _ => callTiming f .pe
  | .cp _ => callTiming f .p
  | .cm _ => callTiming f .m
  | .ret => ⟨3, 10⟩
  | .rnz => returnTiming f .nz
  | .rz => returnTiming f .z
  | .rnc => returnTiming f .nc
  | .rc => returnTiming f .c
  | .rpo => returnTiming f .po
  | .rpe => returnTiming f .pe
  | .rp => returnTiming f .p
  | .rm => returnTiming f .m
  | .rst _ => ⟨3, 12⟩
  | .pchl => ⟨1, 6⟩
  | .push _ | .pushPsw => ⟨3, 12⟩
  | .pop _ | .popPsw => ⟨3, 10⟩
  | .xthl => ⟨5, 16⟩
  | .sphl => ⟨1, 6⟩
  | .inPort _ | .outPort _ => ⟨3, 10⟩
  | .ei | .di | .nop | .rim | .sim => ⟨1, 4⟩
  | .hlt => ⟨1, 5⟩

/-- Interrupt entry by TRAP or RST 7.5, 6.5, 5.5 takes 12 states (R328). -/
def interruptEntryStates : Nat := 12

end Sys2Proof.Machine
end

