-- ==== Sys2Proof/Safety.lean ====
section
/-! DEFINITION. What claims speak of: the invariant of a state, the default memory map, and a final state. -/

namespace Sys2Proof.Machine

/-- The invariant of every state of a run: memory is in its canonical form (R60, R61). -/
abbrev State.Inv (s : State) : Prop := s.mem.wf = true

/-- The address is RAM under MEM_MAP; with the default map every address is (R78). -/
abbrev State.isRam (s : State) (a : Word) : Prop := s.region a = .ram

/-- The end of a run (R46, D13): halted, with nothing left in the environment's queue and no request that could wake the core. -/
abbrev State.final (s : State) : Prop :=
  s.halted = true ∧ s.inputs = [] ∧ s.trapPending = false ∧ (s.inte && s.i75 && !s.m75) = false

end Sys2Proof.Machine
end

