-- ==== Sys2Proof/Certificates/Slice0/Obligations.lean ====
section
/-! DEFINITION. The statements for the provers. The helpers under `Sys2Proof.Claims` are written from the spec's own formulas and not
from the model's, so that a statement can disagree with the model. -/

namespace Sys2Proof.Claims

open Sys2Proof.Machine

/-! ### Encodings and timing -/

/-- The register codes of R92, as numbers. -/
def code : Reg → Nat
  | .b => 0
  | .c => 1
  | .d => 2
  | .e => 3
  | .h => 4
  | .l => 5
  | .a => 7

/-- The pair codes of R93, as numbers. -/
def pairNumber : Pair → Nat
  | .b => 0
  | .d => 1
  | .h => 2
  | .sp => 3

/-- A byte 1 written as a number. -/
def op (n : Nat) : Byte := BitVec.ofNat 8 n

/-- A three-byte encoding: the low byte of the 16-bit operand comes first (R62). -/
def op16 (n : Nat) (w : Word) : List Byte := [op n, BitVec.ofNat 8 (w.toNat % 256), BitVec.ofNat 8 (w.toNat / 256)]

/-- The bytes stand for the instruction, in both directions. -/
def EncodedAs (i : Instr) (bytes : List Byte) : Prop := encode i = bytes ∧ decode bytes = .instr i []

/-- An instruction's encoding and timing lines: its bytes, its machine cycles and its states (R372). -/
def Row (i : Instr) (bytes : List Byte) (cycles states : Nat) : Prop :=
  EncodedAs i bytes ∧ ∀ f, timing f i = { cycles := cycles, states := states }

/-- The ten values of R100. -/
def unassignedBytes : List Byte := [0x08, 0x10, 0x18, 0x28, 0x38, 0xCB, 0xD9, 0xDD, 0xED, 0xFD]

/-- The first bytes of three-byte instructions (R90). -/
def threeByteOpcodes : List Byte :=
  [0x01, 0x11, 0x21, 0x22, 0x2A, 0x31, 0x32, 0x3A, 0xC2, 0xC3, 0xC4, 0xCA, 0xCC, 0xCD, 0xD2, 0xD4, 0xDA, 0xDC, 0xE2, 0xE4, 0xEA, 0xEC,
    0xF2, 0xF4, 0xFA, 0xFC]

/-- The first bytes of two-byte instructions (R90). -/
def twoByteOpcodes : List Byte :=
  [0x06, 0x0E, 0x16, 0x1E, 0x26, 0x2E, 0x36, 0x3E, 0xC6, 0xCE, 0xD3, 0xD6, 0xDB, 0xDE, 0xE6, 0xEE, 0xF6, 0xFE]

/-! ### Flags -/

/-- R33 as an exclusive or: an even number of the eight bits is 1. -/
def evenOnes (v : Byte) : Bool :=
  !(v.getLsbD 0 ^^ v.getLsbD 1 ^^ v.getLsbD 2 ^^ v.getLsbD 3 ^^ v.getLsbD 4 ^^ v.getLsbD 5 ^^ v.getLsbD 6 ^^ v.getLsbD 7)

/-- All five flags: S, Z, P from a result (R30, R31, R33), CY and AC as given. -/
def flagsOf (res : Byte) (cy ac : Bool) : Flags where
  s := decide (128 ≤ res.toNat)
  z := decide (res.toNat = 0)
  ac := ac
  p := evenOnes res
  cy := cy

/-- A carry as the number 0 or 1. -/
def bit (c : Bool) : Nat := if c then 1 else 0

/-- The 8-bit sum of R161. -/
def sum8 (a x : Byte) (c : Bool) : Byte := BitVec.ofNat 8 (a.toNat + x.toNat + bit c)

/-- The 8-bit difference of R162. -/
def diff8 (a x : Byte) (c : Bool) : Byte := BitVec.ofNat 8 (a.toNat + 512 - x.toNat - bit c)

/-- The flags of an addition (R32, R34). -/
def sumFlags (a x : Byte) (c : Bool) : Flags :=
  flagsOf (sum8 a x c) (decide (255 < a.toNat + x.toNat + bit c)) (decide (15 < a.toNat % 16 + x.toNat % 16 + bit c))

/-- The flags of a subtraction: CY is the borrow, AC the absence of a borrow out of the low nibble (R34, R162). -/
def diffFlags (a x : Byte) (c : Bool) : Flags :=
  flagsOf (diff8 a x c) (decide (a.toNat < x.toNat + bit c)) (decide (x.toNat % 16 + bit c ≤ a.toNat % 16))

/-- The state with a new accumulator. -/
def withA (s : State) (v : Byte) : State := { s with regs := { s.regs with a := v } }

/-- The state after an addition to A, but for PC. -/
def added (s : State) (x : Byte) (c : Bool) : State :=
  { withA s (sum8 s.regs.a x c) with flags := sumFlags s.regs.a x c }

/-- The state after a subtraction from A, but for PC. -/
def subtracted (s : State) (x : Byte) (c : Bool) : State :=
  { withA s (diff8 s.regs.a x c) with flags := diffFlags s.regs.a x c }

/-- The state after a compare with A, but for PC: only the flags change. -/
def compared (s : State) (x : Byte) : State := { s with flags := diffFlags s.regs.a x false }

/-- The state after a logical operation, but for PC: CY is cleared, AC is as given. -/
def combined (s : State) (res : Byte) (ac : Bool) : State := { withA s res with flags := flagsOf res false ac }

/-! ### Memory and stack -/

/-- The byte at an address after some writes, the LATEST write first in the list. -/
def readAfter (s : State) : List (Word × Byte) → Word → Byte
  | [], a => s.byteAt a
  | (x, v) :: earlier, a => if a = x then v else readAfter s earlier a

/-- The instruction answers `t`, with a memory in which exactly the listed bytes were written, the latest first. -/
def Stores (i : Instr) (s : State) (writes : List (Word × Byte)) (t : State) : Prop :=
  ∃ m, exec i s = .next { t with mem := m } ∧ ∀ a : Word, m.read a.toNat = readAfter s writes a

/-- The instruction answers `t`, whatever the counter of free values has become. -/
def Answers (i : Instr) (s t : State) : Prop := ∃ d, exec i s = .next { t with draws := d }

/-- The high and low byte of a word. -/
def high (w : Word) : Byte := BitVec.ofNat 8 (w.toNat / 256)

/-- The low byte of a word. -/
def low (w : Word) : Byte := BitVec.ofNat 8 (w.toNat % 256)

/-- The 16-bit value of two bytes. -/
def word (hi lo : Byte) : Word := BitVec.ofNat 16 (hi.toNat * 256 + lo.toNat)

/-- What `MemRead(a, 1)` answers first. -/
def first (s : State) (a : Word) : Byte := (s.load a).1

/-- What `MemRead(a + 1, 1)` answers after `MemRead(a, 1)`. -/
def second (s : State) (a : Word) : Byte := ((s.load a).2.load (a + 1)).1

/-- The two bytes a push writes are RAM. -/
abbrev StackInRam (s : State) : Prop := s.isRam (s.sp - 1) ∧ s.isRam (s.sp - 2)

/-- The two bytes a pop reads are RAM. -/
abbrev TopInRam (s : State) : Prop := s.isRam s.sp ∧ s.isRam (s.sp + 1)

/-- Memory and SP after the push of a word: the high byte at SP - 1, the low byte at SP - 2 (R64). -/
def Pushes (i : Instr) (s : State) (w : Word) (t : State) : Prop :=
  Stores i s [(s.sp - 2, low w), (s.sp - 1, high w)] { t with sp := s.sp - 2 }

/-! ### Conditional branches -/

/-- A conditional jump with its encoding, its timing and its whole effect (R243). -/
def JumpsIf (i : Word → Instr) (opcode : Nat) (test : Flags → Bool) : Prop :=
  ∀ (a : Word) (s : State), EncodedAs (i a) (op16 opcode a) ∧
    timing s.flags (i a) = (if test s.flags then { cycles := 3, states := 10 } else { cycles := 2, states := 7 }) ∧
    exec (i a) s = .next { s with pc := if test s.flags then a else s.pc + 3 }

/-- A conditional call with its encoding, its timing and its whole effect (R253). -/
def CallsIf (i : Word → Instr) (opcode : Nat) (test : Flags → Bool) : Prop :=
  ∀ (a : Word) (s : State), EncodedAs (i a) (op16 opcode a) ∧
    timing s.flags (i a) = (if test s.flags then { cycles := 5, states := 18 } else { cycles := 2, states := 9 }) ∧
    (test s.flags = true → StackInRam s → Pushes (i a) s (s.pc + 3) { s with pc := a }) ∧
    (test s.flags = false → exec (i a) s = .next { s with pc := s.pc + 3 })

/-- A conditional return with its encoding, its timing and its whole effect (R263). -/
def ReturnsIf (i : Instr) (opcode : Nat) (test : Flags → Bool) : Prop :=
  ∀ s : State, EncodedAs i [op opcode] ∧
    timing s.flags i = (if test s.flags then { cycles := 3, states := 12 } else { cycles := 1, states := 6 }) ∧
    (test s.flags = true → Answers i s { s with sp := s.sp + 2, pc := word (second s s.sp) (first s s.sp) }) ∧
    (test s.flags = false → exec i s = .next { s with pc := s.pc + 1 })

/-! ### Frames -/

/-- The registers of a pair; SP is none of the seven. -/
def pairRegs : Pair → List Reg
  | .b => [.b, .c]
  | .d => [.d, .e]
  | .h => [.h, .l]
  | .sp => []

/-- The destination registers of each instruction, from the rules of files 41 to 45. -/
def destinations : Instr → List Reg
  | .mviR r _ | .movRR r _ | .movRM r | .inrR r | .dcrR r => [r]
  | .lxi p _ | .inx p | .dcx p | .pop p => pairRegs p
  | .lda _ | .ldax _ => [.a]
  | .lhld _ | .dad _ | .xthl => [.h, .l]
  | .xchg => [.d, .e, .h, .l]
  | .addR _ | .addM | .adi _ | .adcR _ | .adcM | .aci _ => [.a]
  | .subR _ | .subM | .sui _ | .sbbR _ | .sbbM | .sbi _ => [.a]
  | .daa | .anaR _ | .anaM | .ani _ | .xraR _ | .xraM | .xri _ | .oraR _ | .oraM | .ori _ => [.a]
  | .rlc | .rrc | .ral | .rar | .cma | .popPsw | .inPort _ | .rim => [.a]
  | _ => []

/-- The instructions that write SP (R25): the four with a pair operand SP, SPHL, pushes, pops, calls, returns and RST. -/
def writesSp : Instr → Bool
  | .lxi .sp _ | .inx .sp | .dcx .sp | .sphl => true
  | .push _ | .pushPsw | .pop _ | .popPsw => true
  | .call _ | .cnz _ | .cz _ | .cnc _ | .cc _ | .cpo _ | .cpe _ | .cp _ | .cm _ | .rst _ => true
  | .ret | .rnz | .rz | .rnc | .rc | .rpo | .rpe | .rp | .rm => true
  | _ => false

/-- What R36 says an instruction does to the flags. -/
inductive FlagEffect where
  /-- writes none -/
  | none
  /-- writes CY only -/
  | carryOnly
  /-- writes S, Z, P, AC and keeps CY -/
  | allButCarry
  /-- writes all; CY <- 0, AC <- 1 -/
  | logicalAnd
  /-- writes all; CY <- 0, AC <- 0 -/
  | logicalOr
  /-- writes all -/
  | all

/-- The table of R36. -/
def flagEffect : Instr → FlagEffect
  | .addR _ | .addM | .adi _ | .adcR _ | .adcM | .aci _ => .all
  | .subR _ | .subM | .sui _ | .sbbR _ | .sbbM | .sbi _ => .all
  | .daa | .cmpR _ | .cmpM | .cpi _ | .popPsw => .all
  | .inrR _ | .inrM | .dcrR _ | .dcrM => .allButCarry
  | .dad _ | .rlc | .rrc | .ral | .rar | .cmc | .stc => .carryOnly
  | .anaR _ | .anaM | .ani _ => .logicalAnd
  | .xraR _ | .xraM | .xri _ | .oraR _ | .oraM | .ori _ => .logicalOr
  | _ => .none

/-- What an effect of R36 demands of the flags before and after. -/
def FlagEffect.Holds (f g : Flags) : FlagEffect → Prop
  | .none => g = f
  | .carryOnly => g.s = f.s ∧ g.z = f.z ∧ g.ac = f.ac ∧ g.p = f.p
  | .allButCarry => g.cy = f.cy
  | .logicalAnd => g.cy = false ∧ g.ac = true
  | .logicalOr => g.cy = false ∧ g.ac = false
  | .all => True

/-- The instruction transfers control when it executes with these flags (R27). -/
def transfers (f : Flags) : Instr → Bool
  | .jmp _ | .call _ | .ret | .rst _ | .pchl => true
  | .jnz _ | .cnz _ | .rnz => !f.z
  | .jz _ | .cz _ | .rz => f.z
  | .jnc _ | .cnc _ | .rnc => !f.cy
  | .jc _ | .cc _ | .rc => f.cy
  | .jpo _ | .cpo _ | .rpo => !f.p
  | .jpe _ | .cpe _ | .rpe => f.p
  | .jp _ | .cp _ | .rp => !f.s
  | .jm _ | .cm _ | .rm => f.s
  | _ => false

/-! ### Fetch and boundaries -/

/-- The source is requested and enabled: the trigger and "blocked by" columns of R322, R323. -/
def Requested (s : State) (inp : BoundaryInput) : IntSource → Prop
  | .trap => s.trapPending = true
  | .rst75 => s.inte = true ∧ s.i75 = true ∧ s.m75 = false
  | .rst65 => s.inte = true ∧ inp.rst65 = true ∧ s.m65 = false
  | .rst55 => s.inte = true ∧ inp.rst55 = true ∧ s.m55 = false
  | .intr => s.inte = true ∧ inp.intr = true

/-- The location can be read without an event: RAM or ROM. -/
def Readable (s : State) (a : Word) : Prop := s.region a = .ram ∨ ∃ w, s.region a = .rom w

/-- The instruction's bytes stand at PC and can be read. -/
def At (s : State) (i : Instr) : Prop :=
  ∀ k b, (encode i)[k]? = some b → Readable s (s.pc + BitVec.ofNat 16 k) ∧ s.byteAt (s.pc + BitVec.ofNat 16 k) = b

/-- The free values that a read of the address draws: one where nothing tells what a device or an absent location answers (R78). -/
def readDraw (s : State) (a : Word) : Nat :=
  match s.region a with
  | .ram | .rom _ => 0
  | .device | .absent => 1

/-- The free values that reads of these addresses draw. -/
def readDraws (s : State) (addrs : List Word) : Nat := (addrs.map (readDraw s)).sum

/-- R79: the addresses an instruction reads after its fetch, in order. -/
def dataReads (i : Instr) (s : State) : List Word :=
  match i with
  | .movRM _ | .inrM | .dcrM => [word s.regs.h s.regs.l]
  | .addM | .adcM | .subM | .sbbM | .anaM | .xraM | .oraM | .cmpM => [word s.regs.h s.regs.l]
  | .lda a => [a]
  | .lhld a => [a, a + 1]
  | .ldax p => [s.pair p]
  | .pop _ | .popPsw | .xthl => [s.sp, s.sp + 1]
  | .ret | .rnz | .rz | .rnc | .rc | .rpo | .rpe | .rp | .rm => if transfers s.flags i then [s.sp, s.sp + 1] else []
  | _ => []

/-- The free values an instruction draws after its fetch: those of its reads, and one for the port byte of IN (R69), the fill bits of PUSH
PSW (R29) and the open bits of RIM (R293). -/
def drawsOf (i : Instr) (s : State) : Nat :=
  readDraws s (dataReads i s) +
    match i with
    | .inPort _ | .pushPsw | .rim => 1
    | _ => 0

/-- The addresses a fetch reads: byte 3 of a conditional jump or call that is not taken is not read (R243, U14; log 15). -/
def fetchReads (s : State) : List Word :=
  if first s s.pc ∈ threeByteOpcodes ∧ skipsByte3 (first s s.pc) s.flags = false then [s.pc, s.pc + 1, s.pc + 2]
  else if first s s.pc ∈ threeByteOpcodes ∨ first s s.pc ∈ twoByteOpcodes then [s.pc, s.pc + 1]
  else [s.pc]

/-- The machine runs the instruction at PC in this step: it is not halted and no reset arrives. -/
def Running (s : State) : Prop := s.halted = false ∧ s.boundaryInput.reset = none

/-- No write is refused: every ROM of the platform says that it ignores writes. The default map has no ROM (R78). -/
def WritesDefined (s : State) : Prop := ∀ a, s.region a ≠ .rom false

/-- The 9-bit ring of CY and A that RAL and RAR rotate (R215, R216). -/
def ring (s : State) : BitVec 9 := BitVec.ofBool s.flags.cy ++ s.regs.a

/-- The state whose ring is `v`, but for PC. -/
def withRing (s : State) (v : BitVec 9) : State :=
  { withA s (v.extractLsb' 0 8) with flags := { s.flags with cy := v.getLsbD 8 } }

/-- A byte is two decimal digits. -/
def IsBcd (v : Byte) : Prop := v.toNat % 16 ≤ 9 ∧ v.toNat / 16 ≤ 9

/-- The number that two decimal digits write. -/
def decimal (v : Byte) : Nat := v.toNat / 16 * 10 + v.toNat % 16

end Sys2Proof.Claims

section Statements

open Sys2Proof Sys2Proof.Machine Sys2Proof.Claims

/-! ## Encoding -/

/-- R91 to R96: an encoded well-formed instruction decodes to itself and leaves the following bytes. -/
def Obligations.DecodeOfEncode : Prop :=
  ∀ (i : Instr) (rest : List Byte), i.wellFormed = true → decode (encode i ++ rest) = .instr i rest

/-- R101: the decoder answers only well-formed instructions and only for their own encoding; no bit is ignored. -/
def Obligations.DecodeAnswersOnlyEncodings : Prop :=
  ∀ (bytes rest : List Byte) (i : Instr), decode bytes = .instr i rest → i.wellFormed = true ∧ bytes = encode i ++ rest

/-- R90, on the length: byte 1 alone determines it, by the lists of first bytes. -/
def Obligations.LengthByFirstByte : Prop :=
  ∀ b1 b2 b3 : Byte,
    (b1 ∈ threeByteOpcodes → ∃ i, decode [b1, b2, b3] = .instr i [] ∧ (encode i).length = 3) ∧
    (b1 ∈ twoByteOpcodes → ∃ i, decode [b1, b2, b3] = .instr i [b3] ∧ (encode i).length = 2) ∧
    (b1 ∉ threeByteOpcodes → b1 ∉ twoByteOpcodes → b1 ∉ unassignedBytes →
      ∃ i, decode [b1, b2, b3] = .instr i [b2, b3] ∧ (encode i).length = 1)

/-- Words written out from R91 to R95 decode to the instructions they stand for; the table numbers a word's later bytes upward. -/
def Obligations.SampleWordsDecode : Prop :=
  decode [0b01111000] = .instr (.movRR .a .b) [] ∧
  decode [0b00111110, 0x42] = .instr (.mviR .a 0x42) [] ∧
  decode [0b00100001, 0x50, 0x20] = .instr (.lxi .h 0x2050) [] ∧
  decode [0b10001001] = .instr (.adcR .c) [] ∧
  decode [0b00111001] = .instr (.dad .sp) [] ∧
  decode [0b10111011] = .instr (.cmpR .e) [] ∧
  decode [0b11101111] = .instr (.rst 5) [] ∧
  decode [0b11110001] = .instr .popPsw [] ∧
  decode [0b01110110] = .instr .hlt [] ∧
  decodeTableWord 24 0x3000CD = some (.call 0x3000) ∧
  decodeTableWord 8 0x76 = some .hlt

/-- R100: exactly ten first bytes select no instruction, and a running machine that fetches one refuses it by name under the default of
ILLEGAL_OPCODE. Where the platform says otherwise it acts as a one-byte NOP, the other value that the model gives the parameter (log 12). -/
def Obligations.TenFirstBytesAreRefused : Prop :=
  (∀ (b : Byte) (rest : List Byte), decode (b :: rest) = .rejected (.unassigned b) ↔ b ∈ unassignedBytes) ∧
  (∀ s : State, Running s → first s s.pc ∈ unassignedBytes →
    (s.params.illegalOpcode = .refuse → step s = .refused (.illegalOpcode (first s s.pc))) ∧
    (s.params.illegalOpcode = .nop →
      ∃ d, step s = andThen (exec .nop { s with draws := d }) fun t => (t.endInstruction .nop s.eiPending).atBoundary true))

/-! ## The step -/

/-- R10: where the bytes at PC are those of a well-formed instruction, a step is that instruction's meaning, then the bookkeeping of R42
with `ei_pending` as it was when the instruction began, then the boundary, at which EI and DI hold recognition off. The split
into these three operations is the model's (log 24). -/
def Obligations.StepRunsDecodedInstruction : Prop :=
  ∀ (i : Instr) (s : State), i.wellFormed = true → Running s → At s i →
    step s = andThen (exec i s) fun t => (t.endInstruction i s.eiPending).atBoundary (recognisesAfter i)

/-- R320: no step faults; a step refuses only one of the ten bytes of R100, or a write to a ROM whose platform does not define it
(R78). That the model refuses there is its choice (log 12, 21). -/
def Obligations.StepStopsOnlyTwoWays : Prop :=
  ∀ s : State, (∀ f, step s ≠ .fault f) ∧ ∀ e, step s = .refused e →
    (s.params.illegalOpcode = .refuse ∧ ∃ b ∈ unassignedBytes, e = .illegalOpcode b) ∨
      (∃ a, s.region a = .rom false ∧ e = .romWrite a)

/-- R320: every instruction completes, in every state in which the platform defines what a write to each ROM does. -/
def Obligations.EveryInstructionCompletes : Prop :=
  ∀ (i : Instr) (s : State), WritesDefined s → ∃ t, exec i s = .next t

/-- The headline invariant: a step from any state whose memory is canonical ends in one (R60, R61). -/
def Obligations.StepKeepsMemoryCanonical : Prop :=
  ∀ s t : State, s.Inv → step s = .next t → t.Inv

/-- The reset values the spec gives (R50), under the defaults of R6 and under any parameters, and the canonical memory. That the
parameters stand in the state is the model's choice (log 25). -/
def Obligations.ResetState : Prop :=
  State.reset.pc = 0x0000 ∧ State.reset.inte = false ∧ State.reset.eiPending = false ∧ State.reset.halted = false ∧
  State.reset.m55 = true ∧ State.reset.m65 = true ∧ State.reset.m75 = true ∧ State.reset.i75 = false ∧ State.reset.sod = false ∧
  (∀ a, State.reset.isRam a) ∧ State.reset.Inv ∧
  State.reset.params.resetPc = 0x0000 ∧ State.reset.params.illegalOpcode = .refuse ∧
  State.reset.params.interrupts.priority = [.trap, .rst75, .rst65, .rst55, .intr] ∧
  (∀ (p : Params) (map : List MapEntry),
    State.resetWith p map = { State.reset with pc := p.resetPc, params := p, memMap := map })

/-- No step changes the parameters of R6 or MEM_MAP; the output trace only grows at its end; each step uses up one entry of the
environment's queue. The counter of free values never falls, and it rises by one at each draw, so that no draw meets an earlier one's
value (`any8()` is fresh at every use, R9): in a read, in an instruction, in a running step with its fetch, and in a reset, which draws
registers, flags and SP (R361). That these stand in the state is the model's choice (log 7, 8, 11, 22, 25). -/
def Obligations.StepKeepsPlatformBookkeeping : Prop :=
  (∀ s t : State, step s = .next t →
    t.params = s.params ∧ t.memMap = s.memMap ∧ s.outputs <+: t.outputs ∧ t.inputs = s.inputs.tail ∧ s.draws ≤ t.draws ∧
    (s.boundaryInput.reset ≠ none → s.draws < t.draws) ∧
    (s.boundaryInput.reset = none → s.halted = true → t.draws = s.draws) ∧
    (∀ i rest, Running s → s.fetch.1 = .instr i rest → t.draws = s.draws + readDraws s (fetchReads s) + drawsOf i s)) ∧
  (∀ (i : Instr) (s t : State), exec i s = .next t → t.draws = s.draws + drawsOf i s) ∧
  (∀ (s : State) (a : Word), (s.load a).2 = { s with draws := s.draws + readDraw s a })

/-- R27: an instruction that does not transfer control ends with PC at the next instruction. -/
def Obligations.PcAdvancesByLength : Prop :=
  ∀ (i : Instr) (s t : State), exec i s = .next t → transfers s.flags i = false →
    t.pc = s.pc + BitVec.ofNat 16 (encode i).length

/-! ## Frames -/

/-- R61, R79: whatever the regions, an instruction's writes are those of R79, in that order; it refuses exactly where one of them is
refused, which is the model's choice (log 21). -/
def Obligations.WritesInStatedOrder : Prop :=
  ∀ (i : Instr) (s : State),
    (∀ t, exec i s = .next t →
      ∃ u, State.busWrites (writesOf i s) s = .next u ∧ u.mem = t.mem ∧ u.outputs = t.outputs) ∧
    (∀ e, exec i s = .refused e ↔ State.busWrites (writesOf i s) s = .refused e)

/-- R61: every byte an instruction does not write keeps its value; an instruction that writes no memory changes no byte. -/
def Obligations.MemoryFrame : Prop :=
  ∀ (i : Instr) (s t : State) (a : Word), exec i s = .next t → (∀ v, BusWrite.mem a v ∉ writesOf i s) → t.byteAt a = s.byteAt a

/-- Every register that is no destination keeps its value, and SP is written only by the instructions R25 names. -/
def Obligations.RegisterFrame : Prop :=
  ∀ (i : Instr) (s t : State), exec i s = .next t →
    (∀ r, r ∉ destinations i → t.reg r = s.reg r) ∧ (writesSp i = false → t.sp = s.sp)

/-- R36: which instructions write which flags. -/
def Obligations.FlagFrame : Prop :=
  ∀ (i : Instr) (s t : State), exec i s = .next t → (flagEffect i).Holds s.flags t.flags

/-- INTE and ei_pending change only by EI and DI, `halted` by HLT, the masks, the RST 7.5 latch and SOD by SIM, and nothing an
instruction does touches the TRAP request, the environment's queue, MEM_MAP or the parameters. The mark of the first RIM after a TRAP,
the model's own (log 6), changes only by RIM. -/
def Obligations.ControlStateFrame : Prop :=
  ∀ (i : Instr) (s t : State), exec i s = .next t →
    (i ≠ .ei → i ≠ .di → t.inte = s.inte ∧ t.eiPending = s.eiPending) ∧
    (i ≠ .hlt → t.halted = s.halted) ∧
    (i ≠ .sim → t.m75 = s.m75 ∧ t.m65 = s.m65 ∧ t.m55 = s.m55 ∧ t.i75 = s.i75 ∧ t.sod = s.sod) ∧
    (i ≠ .rim → t.trapRim = s.trapRim) ∧
    t.trapPending = s.trapPending ∧ t.inputs = s.inputs ∧ t.memMap = s.memMap ∧ t.params = s.params

/-! ## Interrupts and reset -/

/-- R42: the delayed enable, over every instruction that completes. -/
def Obligations.DelayedEnableBookkeeping : Prop :=
  ∀ (i : Instr) (s t : State), exec i s = .next t →
    (i = .ei → (t.endInstruction i s.eiPending).eiPending = true ∧ (t.endInstruction i s.eiPending).inte = s.inte) ∧
    (i = .di → (t.endInstruction i s.eiPending).inte = false ∧ (t.endInstruction i s.eiPending).eiPending = false) ∧
    (i ≠ .ei → i ≠ .di →
      (t.endInstruction i s.eiPending).inte = (s.inte || s.eiPending) ∧ (t.endInstruction i s.eiPending).eiPending = false)

/-- R40, R42: INTE goes from 0 to 1 only at the end of the instruction that follows an EI: in the step before, ei_pending was set and the
machine was neither halted nor reset. -/
def Obligations.InterruptsEnabledOnlyAfterEi : Prop :=
  ∀ s t : State, step s = .next t → s.inte = false → t.inte = true → s.eiPending = true ∧ Running s

/-- R324, R294: the RST 7.5 latch, once set, stays set until RST 7.5 is taken (at the platform's entry address, 0x003C by default), a
SIM with bit 4 executes, or reset; and the masks and SOD change only by SIM and reset. -/
def Obligations.LatchAndMaskWriters : Prop :=
  ∀ s t : State, step s = .next t → s.boundaryInput.reset = none →
    (s.i75 = true → t.i75 = true ∨ (t.pc = s.params.interrupts.rst75Entry ∧ t.inte = false) ∨
      (s.halted = false ∧ first s s.pc = 0x30 ∧ s.regs.a.getLsbD 4 = true)) ∧
    (first s s.pc ≠ 0x30 → t.m75 = s.m75 ∧ t.m65 = s.m65 ∧ t.m55 = s.m55 ∧ t.sod = s.sod)

/-- R322, R323, R325: which request is taken, of the model's state after its lines are sampled (log 9, 10). The first clause is for
every set of inputs a platform may have (R6, log 25); the others say, for the default order of R325, when their source is the one. -/
def Obligations.InterruptPriority : Prop :=
  ∀ (s : State) (inp : BoundaryInput),
    (∀ source, s.enabledRequest inp = some source ↔
      ∃ before after, s.params.interrupts.priority = before ++ source :: after ∧ Requested s inp source ∧
        ∀ x ∈ before, ¬Requested s inp x) ∧
    (s.params.interrupts.priority = [.trap, .rst75, .rst65, .rst55, .intr] →
      (s.enabledRequest inp = some .trap ↔ s.trapPending = true) ∧
      (s.enabledRequest inp = some .rst75 ↔ s.trapPending = false ∧ s.inte = true ∧ s.i75 = true ∧ s.m75 = false) ∧
      (s.enabledRequest inp = some .rst65 ↔
        s.trapPending = false ∧ s.inte = true ∧ (s.i75 = false ∨ s.m75 = true) ∧ inp.rst65 = true ∧ s.m65 = false) ∧
      (s.enabledRequest inp = some .rst55 ↔
        s.trapPending = false ∧ s.inte = true ∧ (s.i75 = false ∨ s.m75 = true) ∧ (inp.rst65 = false ∨ s.m65 = true) ∧
          inp.rst55 = true ∧ s.m55 = false) ∧
      (s.enabledRequest inp = some .intr ↔
        s.trapPending = false ∧ s.inte = true ∧ (s.i75 = false ∨ s.m75 = true) ∧ (inp.rst65 = false ∨ s.m65 = true) ∧
          (inp.rst55 = false ∨ s.m55 = true) ∧ inp.intr = true))

/-- R328: the entry of TRAP, RST 7.5, RST 6.5 and RST 5.5, over a stack in RAM, at the addresses of the platform's set (R6, log 25),
which are R322's by default. Taking TRAP, and no other source, ends its request until a new edge (R324, in the model's latch, log 9) and
marks the next RIM as the first one after a TRAP (R332, U7, in the model's mark, log 6). -/
def Obligations.InterruptEntry : Prop :=
  interruptEntryStates = 12 ∧
  State.reset.params.interrupts.trapEntry = 0x0024 ∧ State.reset.params.interrupts.rst75Entry = 0x003C ∧
  State.reset.params.interrupts.rst65Entry = 0x0034 ∧ State.reset.params.interrupts.rst55Entry = 0x002C ∧
  ∀ (s : State) (source : IntSource) (supplied : SuppliedInstr) (entry : Word), StackInRam s →
    (source = .trap ∧ entry = s.params.interrupts.trapEntry) ∨ (source = .rst75 ∧ entry = s.params.interrupts.rst75Entry) ∨
      (source = .rst65 ∧ entry = s.params.interrupts.rst65Entry) ∨ (source = .rst55 ∧ entry = s.params.interrupts.rst55Entry) →
    ∃ m,
      s.interruptEntry source supplied = .next
        { s with
          halted := false
          inte := false
          eiPending := false
          i75 := if source = .rst75 then false else s.i75
          mem := m
          sp := s.sp - 2
          pc := entry
          trapPending := s.trapPending && source != .trap
          trapRim := s.trapRim || source == .trap } ∧
      ∀ a : Word, m.read a.toNat = readAfter s [(s.sp - 2, low s.pc), (s.sp - 1, high s.pc)] a

/-- R333: INTR runs the instruction the device supplies, RST n or CALL, with the interrupted pc as its return address, and clears INTE.
That it ends the halt and clears ei_pending too, as R328 says of the other sources, and that it runs inside the entry are the model's
choice (log 20). -/
def Obligations.IntrEntry : Prop :=
  ∀ (s : State) (supplied : SuppliedInstr), StackInRam s →
    ∃ m,
      s.interruptEntry .intr supplied = .next
        { s with
          halted := false
          inte := false
          eiPending := false
          mem := m
          sp := s.sp - 2
          pc := match supplied with
            | .rst n => BitVec.ofNat 16 (8 * n.toNat)
            | .call addr => addr } ∧
      ∀ a : Word, m.read a.toNat = readAfter s [(s.sp - 2, low s.pc), (s.sp - 1, high s.pc)] a

/-- R324, R326 as the model reads them (log 8, 9, 10): at a boundary an RST 7.5 edge on an input the platform has (log 25) sets its
latch, and a TRAP request needs an edge, lasts while the level is high and does not come back without a new edge; then, where
recognition is allowed, the request of highest priority is entered, and where none is enabled or recognition is not allowed the program
goes on. -/
def Obligations.RecognitionAtBoundary : Prop :=
  ∀ (s : State) (inp : BoundaryInput), s.boundaryInput = inp →
    (s.sampleLines inp).i75 = (s.i75 || (inp.rst75Edge && s.params.interrupts.priority.contains .rst75)) ∧
    (inp.trapLevel = false → (s.sampleLines inp).trapPending = false) ∧
    (inp.trapLevel = true → (s.sampleLines inp).trapPending =
      (s.trapPending || (inp.trapEdge && s.params.interrupts.priority.contains .trap))) ∧
    s.atBoundary false = .next (s.sampleLines inp) ∧
    ((s.sampleLines inp).enabledRequest inp = none → s.atBoundary true = .next (s.sampleLines inp)) ∧
    (∀ source, (s.sampleLines inp).enabledRequest inp = some source →
      s.atBoundary true = (s.sampleLines inp).interruptEntry source inp.supplied)

/-- R334: a halted machine without a reset executes nothing, and if no enabled request is there nothing changes but the environment's
lines. That a step of a halted machine is one boundary is the model's choice (log 14), and so is the queue that moves on by one entry
(log 8). -/
def Obligations.HaltedStep : Prop :=
  ∀ s : State, s.halted = true → s.boundaryInput.reset = none →
    step s = s.atBoundary true ∧
    ((s.sampleLines s.boundaryInput).enabledRequest s.boundaryInput = none →
      ∃ i75 trapPending, step s = .next { s with i75 := i75, trapPending := trapPending, inputs := s.inputs.tail })

/-- D13, R46: the end of a run is final: such a state steps to itself for ever (the model's form of a final state, log 14). -/
def Obligations.FinalStateStaysFinal : Prop :=
  ∀ s : State, s.final → step s = .next s

/-- R330: a RET gives back the PC and SP that any interrupt entry saved, whatever the handler did to the rest of the state. -/
def Obligations.HandlerReturns : Prop :=
  ∀ (s t : State) (source : IntSource) (supplied : SuppliedInstr), StackInRam s → s.interruptEntry source supplied = .next t →
    ∀ u : State, u.mem = t.mem → u.memMap = t.memMap → u.sp = t.sp →
      exec .ret u = .next { u with pc := s.pc, sp := s.sp }

/-- R360, with RESET_PC as the parameter of R6 (log 23): a reset, running or halted, before the step has written anything: what the
procedure gives. Registers, flags and SP are left open (R361). That the TRAP request and the mark of the first RIM after a TRAP end, and
that the queue moves on by one entry, are the model's choices (log 9, 6, 8). -/
def Obligations.ResetProcedure : Prop :=
  ∀ s : State, s.boundaryInput.reset = some 0 →
    ∃ regs flags sp draws,
      step s = .next
        { s with
          pc := s.params.resetPc
          inte := false
          eiPending := false
          halted := false
          m55 := true
          m65 := true
          m75 := true
          i75 := false
          sod := false
          regs := regs
          flags := flags
          sp := sp
          trapPending := false
          trapRim := false
          inputs := s.inputs.tail
          draws := draws }

/-- R361 in the model's form (log 13): a reset that comes when the instruction has made n of its writes leaves exactly those n. A count
beyond them falls into the boundary: with an interrupt enabled there, the first writes of its entry are made too, and with none, nothing
more. -/
def Obligations.ResetAbandonsInstruction : Prop :=
  ∀ (s : State) (n : Nat) (i : Instr), s.boundaryInput.reset = some n → s.halted = false → i.wellFormed = true → At s i →
    WritesDefined s →
    ∃ t u v, step s = .next t ∧ State.busWrites ((writesOf i s).take n) s = .next u ∧
      (n ≤ (writesOf i s).length → v = u) ∧
      ((writesOf i s).length < n → ∃ w, exec i s = .next w ∧
        let b := w.endInstruction i s.eiPending
        State.busWrites ((b.boundaryWrites (recognisesAfter i)).take (n - (writesOf i s).length)) b = .next v) ∧
      t.mem = v.mem ∧ t.outputs = v.outputs ∧
      t.pc = s.params.resetPc ∧ t.inte = false ∧ t.eiPending = false ∧ t.halted = false ∧
      t.m55 = true ∧ t.m65 = true ∧ t.m75 = true ∧ t.i75 = false ∧ t.sod = false

/-- R328, R361 in the model's form (log 13): at a halted machine, a reset that comes after the first write of an interrupt entry leaves
the high byte of PC on the stack and not the low one. -/
def Obligations.ResetAbandonsEntry : Prop :=
  ∀ (s : State) (source : IntSource), s.halted = true → s.boundaryInput.reset = some 1 → StackInRam s →
    (s.sampleLines s.boundaryInput).enabledRequest s.boundaryInput = some source →
    ∃ t, step s = .next t ∧ t.pc = s.params.resetPc ∧ t.halted = false ∧
      ∀ a : Word, t.byteAt a = readAfter s [(s.sp - 1, high s.pc)] a

/-! ## Memory -/

/-- R61, on RAM: the byte read is the byte last written there, and every other location keeps its value. -/
def Obligations.ReadAfterWrite : Prop :=
  ∀ (s : State) (a : Word) (v : Byte), s.isRam a →
    ∃ m, s.store a v = .next { s with mem := m } ∧
      ({ s with mem := m } : State).load a = (v, { s with mem := m }) ∧
      ∀ b : Word, b ≠ a → m.read b.toNat = s.byteAt b

/-- The canonical form, the model's representation of memory (log 3), is canonical: two memories with the same content at every address
are the same data. -/
def Obligations.CanonicalMemoryIsContent : Prop :=
  ∀ m n : Memory, m.wf = true → n.wf = true → (∀ a : Word, m.read a.toNat = n.read a.toNat) → m = n

/-- R78: what each kind of region answers to a read and does with a write. A ROM whose platform says nothing of writes refuses them,
the model's choice (log 21). -/
def Obligations.MemoryMapRegions : Prop :=
  ∀ (s : State) (a : Word) (v : Byte),
    (s.memMap = [] → s.region a = .ram) ∧
    (s.region a = .ram → s.load a = (s.byteAt a, s)) ∧
    (∀ w, s.region a = .rom w → s.load a = (s.byteAt a, s)) ∧
    (s.region a = .rom true → s.store a v = .next s) ∧
    (s.region a = .rom false → s.store a v = .refused (.romWrite a)) ∧
    (s.region a = .device → (∃ x d, s.load a = (x, { s with draws := d })) ∧
      s.store a v = .next { s with outputs := s.outputs ++ [.device a v] }) ∧
    (s.region a = .absent → (∃ x d, s.load a = (x, { s with draws := d })) ∧ s.store a v = .next s)

/-! ## Data transfer -/

/-- R132, R133, R137, R144: MVI r, MOV r1 r2, LXI and XCHG; and what it is to set one register (R20, R22). -/
def Obligations.RegisterTransfers : Prop :=
  ∀ s : State,
    (∀ r q v, (s.setReg r v).reg q = (if q = r then v else s.reg q) ∧ s.setReg r v = { s with regs := s.regs.set r v }) ∧
    (∀ r v, Row (.mviR r v) [op (0x06 + 8 * code r), v] 2 7 ∧
      exec (.mviR r v) s = .next { s with regs := s.regs.set r v, pc := s.pc + 2 }) ∧
    (∀ r1 r2, Row (.movRR r1 r2) [op (0x40 + 8 * code r1 + code r2)] 1 4 ∧
      exec (.movRR r1 r2) s = .next { s with regs := s.regs.set r1 (s.reg r2), pc := s.pc + 1 }) ∧
    (∀ p w, Row (.lxi p w) (op16 (0x01 + 16 * pairNumber p) w) 3 10) ∧
    (∀ w, exec (.lxi .b w) s = .next { s with regs := { s.regs with b := high w, c := low w }, pc := s.pc + 3 }) ∧
    (∀ w, exec (.lxi .d w) s = .next { s with regs := { s.regs with d := high w, e := low w }, pc := s.pc + 3 }) ∧
    (∀ w, exec (.lxi .h w) s = .next { s with regs := { s.regs with h := high w, l := low w }, pc := s.pc + 3 }) ∧
    (∀ w, exec (.lxi .sp w) s = .next { s with sp := w, pc := s.pc + 3 }) ∧
    Row .xchg [0xEB] 1 4 ∧
    exec .xchg s = .next
      { s with regs := { s.regs with h := s.regs.d, l := s.regs.e, d := s.regs.h, e := s.regs.l }, pc := s.pc + 1 }

/-- R134, R138, R140, R142: the loads, for every kind of region that is read. -/
def Obligations.LoadsFromMemory : Prop :=
  ∀ s : State,
    (∀ r, Row (.movRM r) [op (0x46 + 8 * code r)] 2 7 ∧
      Answers (.movRM r) s { s with regs := s.regs.set r (first s (word s.regs.h s.regs.l)), pc := s.pc + 1 }) ∧
    (∀ a, Row (.lda a) (op16 0x3A a) 4 13 ∧ Answers (.lda a) s { withA s (first s a) with pc := s.pc + 3 }) ∧
    (∀ a, Row (.lhld a) (op16 0x2A a) 5 16 ∧
      Answers (.lhld a) s { s with regs := { s.regs with l := first s a, h := second s a }, pc := s.pc + 3 }) ∧
    Row (.ldax .b) [0x0A] 2 7 ∧
    Answers (.ldax .b) s { withA s (first s (word s.regs.b s.regs.c)) with pc := s.pc + 1 } ∧
    Row (.ldax .d) [0x1A] 2 7 ∧
    Answers (.ldax .d) s { withA s (first s (word s.regs.d s.regs.e)) with pc := s.pc + 1 }

/-- R135, R136, R139, R141, R143: the stores, to RAM. SHLD at address 0xFFFF writes its high byte to 0x0000. -/
def Obligations.StoresToMemory : Prop :=
  ∀ s : State,
    (∀ r, Row (.movMR r) [op (0x70 + code r)] 2 7 ∧
      (s.isRam (word s.regs.h s.regs.l) →
        Stores (.movMR r) s [(word s.regs.h s.regs.l, s.reg r)] { s with pc := s.pc + 1 })) ∧
    (∀ v, Row (.mviM v) [0x36, v] 3 10 ∧
      (s.isRam (word s.regs.h s.regs.l) → Stores (.mviM v) s [(word s.regs.h s.regs.l, v)] { s with pc := s.pc + 2 })) ∧
    (∀ a, Row (.sta a) (op16 0x32 a) 4 13 ∧ (s.isRam a → Stores (.sta a) s [(a, s.regs.a)] { s with pc := s.pc + 3 })) ∧
    Row (.stax .b) [0x02] 2 7 ∧
    (s.isRam (word s.regs.b s.regs.c) →
      Stores (.stax .b) s [(word s.regs.b s.regs.c, s.regs.a)] { s with pc := s.pc + 1 }) ∧
    Row (.stax .d) [0x12] 2 7 ∧
    (s.isRam (word s.regs.d s.regs.e) →
      Stores (.stax .d) s [(word s.regs.d s.regs.e, s.regs.a)] { s with pc := s.pc + 1 }) ∧
    (∀ a, Row (.shld a) (op16 0x22 a) 5 16 ∧
      (s.isRam a → s.isRam (a + 1) →
        Stores (.shld a) s [(a + 1, s.regs.h), (a, s.regs.l)] { s with pc := s.pc + 3 }))

/-! ## Arithmetic -/

/-- R161, R163 to R168: ADD, ADI, ADC, ACI. -/
def Obligations.Additions : Prop :=
  ∀ s : State,
    (∀ r, Row (.addR r) [op (0x80 + code r)] 1 4 ∧ exec (.addR r) s = .next { added s (s.reg r) false with pc := s.pc + 1 }) ∧
    Row .addM [0x86] 2 7 ∧ Answers .addM s { added s (first s (word s.regs.h s.regs.l)) false with pc := s.pc + 1 } ∧
    (∀ v, Row (.adi v) [0xC6, v] 2 7 ∧ exec (.adi v) s = .next { added s v false with pc := s.pc + 2 }) ∧
    (∀ r, Row (.adcR r) [op (0x88 + code r)] 1 4 ∧
      exec (.adcR r) s = .next { added s (s.reg r) s.flags.cy with pc := s.pc + 1 }) ∧
    Row .adcM [0x8E] 2 7 ∧ Answers .adcM s { added s (first s (word s.regs.h s.regs.l)) s.flags.cy with pc := s.pc + 1 } ∧
    (∀ v, Row (.aci v) [0xCE, v] 2 7 ∧ exec (.aci v) s = .next { added s v s.flags.cy with pc := s.pc + 2 })

/-- R162, R169 to R174: SUB, SUI, SBB, SBI. -/
def Obligations.Subtractions : Prop :=
  ∀ s : State,
    (∀ r, Row (.subR r) [op (0x90 + code r)] 1 4 ∧
      exec (.subR r) s = .next { subtracted s (s.reg r) false with pc := s.pc + 1 }) ∧
    Row .subM [0x96] 2 7 ∧ Answers .subM s { subtracted s (first s (word s.regs.h s.regs.l)) false with pc := s.pc + 1 } ∧
    (∀ v, Row (.sui v) [0xD6, v] 2 7 ∧ exec (.sui v) s = .next { subtracted s v false with pc := s.pc + 2 }) ∧
    (∀ r, Row (.sbbR r) [op (0x98 + code r)] 1 4 ∧
      exec (.sbbR r) s = .next { subtracted s (s.reg r) s.flags.cy with pc := s.pc + 1 }) ∧
    Row .sbbM [0x9E] 2 7 ∧
    Answers .sbbM s { subtracted s (first s (word s.regs.h s.regs.l)) s.flags.cy with pc := s.pc + 1 } ∧
    (∀ v, Row (.sbi v) [0xDE, v] 2 7 ∧ exec (.sbi v) s = .next { subtracted s v s.flags.cy with pc := s.pc + 2 })

/-- R175 to R178: INR and DCR of a register, and of RAM; every flag but CY, from the value incremented or decremented. -/
def Obligations.IncrementsAndDecrements : Prop :=
  ∀ s : State,
    (∀ r, Row (.inrR r) [op (0x04 + 8 * code r)] 1 4 ∧
      exec (.inrR r) s = .next
        { s with
          regs := s.regs.set r (sum8 (s.reg r) 1 false)
          flags := { sumFlags (s.reg r) 1 false with cy := s.flags.cy }
          pc := s.pc + 1 }) ∧
    (∀ r, Row (.dcrR r) [op (0x05 + 8 * code r)] 1 4 ∧
      exec (.dcrR r) s = .next
        { s with
          regs := s.regs.set r (diff8 (s.reg r) 1 false)
          flags := { diffFlags (s.reg r) 1 false with cy := s.flags.cy }
          pc := s.pc + 1 }) ∧
    Row .inrM [0x34] 3 10 ∧
    (s.isRam (word s.regs.h s.regs.l) →
      Stores .inrM s [(word s.regs.h s.regs.l, sum8 (s.byteAt (word s.regs.h s.regs.l)) 1 false)]
        { s with flags := { sumFlags (s.byteAt (word s.regs.h s.regs.l)) 1 false with cy := s.flags.cy }, pc := s.pc + 1 }) ∧
    Row .dcrM [0x35] 3 10 ∧
    (s.isRam (word s.regs.h s.regs.l) →
      Stores .dcrM s [(word s.regs.h s.regs.l, diff8 (s.byteAt (word s.regs.h s.regs.l)) 1 false)]
        { s with flags := { diffFlags (s.byteAt (word s.regs.h s.regs.l)) 1 false with cy := s.flags.cy }, pc := s.pc + 1 })

/-- R179, R180, R181: INX, DCX and DAD as 16-bit arithmetic on the pair's value. -/
def Obligations.PairArithmetic : Prop :=
  ∀ (s : State) (p : Pair),
    Row (.inx p) [op (0x03 + 16 * pairNumber p)] 1 6 ∧
    (∃ t, exec (.inx p) s = .next t ∧ (t.pair p).toNat = ((s.pair p).toNat + 1) % 65536 ∧
      (∀ q, q ≠ p → t.pair q = s.pair q) ∧ t = { s with regs := t.regs, sp := t.sp, pc := s.pc + 1 } ∧ t.regs.a = s.regs.a) ∧
    Row (.dcx p) [op (0x0B + 16 * pairNumber p)] 1 6 ∧
    (∃ t, exec (.dcx p) s = .next t ∧ (t.pair p).toNat = ((s.pair p).toNat + 65535) % 65536 ∧
      (∀ q, q ≠ p → t.pair q = s.pair q) ∧ t = { s with regs := t.regs, sp := t.sp, pc := s.pc + 1 } ∧ t.regs.a = s.regs.a) ∧
    Row (.dad p) [op (0x09 + 16 * pairNumber p)] 3 10 ∧
    exec (.dad p) s = .next
      { s with
        regs :=
          { s.regs with
            h := BitVec.ofNat 8 (((s.hl.toNat + (s.pair p).toNat) % 65536) / 256)
            l := BitVec.ofNat 8 (((s.hl.toNat + (s.pair p).toNat) % 65536) % 256) }
        flags := { s.flags with cy := decide (65535 < s.hl.toNat + (s.pair p).toNat) }
        pc := s.pc + 1 }

/-- R182, the one-pass form of the rule. -/
def Obligations.DecimalAdjust : Prop :=
  Row .daa [0x27] 1 4 ∧
  ∀ s : State,
    let a := s.regs.a.toNat
    let lowCorr := if 9 < a % 16 ∨ s.flags.ac = true then 6 else 0
    let high := decide (0x99 < a) || s.flags.cy
    let res := BitVec.ofNat 8 (a + lowCorr + (if high then 0x60 else 0))
    exec .daa s = .next { withA s res with flags := flagsOf res high (decide (15 < a % 16 + lowCorr)), pc := s.pc + 1 }

/-- ADC and then DAA on two decimal operands give their decimal sum with the carry in, and CY as the hundreds (R166, R182). -/
def Obligations.DecimalAddition : Prop :=
  ∀ (s t u : State) (r : Reg), IsBcd s.regs.a → IsBcd (s.reg r) → exec (.adcR r) s = .next t → exec .daa t = .next u →
    IsBcd u.regs.a ∧ decimal u.regs.a + 100 * bit u.flags.cy = decimal s.regs.a + decimal (s.reg r) + bit s.flags.cy

/-! ## Logic -/

/-- R201 to R209: AND, exclusive OR and OR clear CY; AND sets AC and the others clear it. -/
def Obligations.LogicalOperations : Prop :=
  ∀ s : State,
    (∀ r, Row (.anaR r) [op (0xA0 + code r)] 1 4 ∧
      exec (.anaR r) s = .next { combined s (s.regs.a &&& s.reg r) true with pc := s.pc + 1 }) ∧
    Row .anaM [0xA6] 2 7 ∧
    Answers .anaM s { combined s (s.regs.a &&& first s (word s.regs.h s.regs.l)) true with pc := s.pc + 1 } ∧
    (∀ v, Row (.ani v) [0xE6, v] 2 7 ∧ exec (.ani v) s = .next { combined s (s.regs.a &&& v) true with pc := s.pc + 2 }) ∧
    (∀ r, Row (.xraR r) [op (0xA8 + code r)] 1 4 ∧
      exec (.xraR r) s = .next { combined s (s.regs.a ^^^ s.reg r) false with pc := s.pc + 1 }) ∧
    Row .xraM [0xAE] 2 7 ∧
    Answers .xraM s { combined s (s.regs.a ^^^ first s (word s.regs.h s.regs.l)) false with pc := s.pc + 1 } ∧
    (∀ v, Row (.xri v) [0xEE, v] 2 7 ∧ exec (.xri v) s = .next { combined s (s.regs.a ^^^ v) false with pc := s.pc + 2 }) ∧
    (∀ r, Row (.oraR r) [op (0xB0 + code r)] 1 4 ∧
      exec (.oraR r) s = .next { combined s (s.regs.a ||| s.reg r) false with pc := s.pc + 1 }) ∧
    Row .oraM [0xB6] 2 7 ∧
    Answers .oraM s { combined s (s.regs.a ||| first s (word s.regs.h s.regs.l)) false with pc := s.pc + 1 } ∧
    (∀ v, Row (.ori v) [0xF6, v] 2 7 ∧ exec (.ori v) s = .next { combined s (s.regs.a ||| v) false with pc := s.pc + 2 })

/-- R210 to R212: the compares set the flags of a subtraction and write nothing else; Z is equality and CY is unsigned less-than. -/
def Obligations.Compares : Prop :=
  ∀ s : State,
    (∀ r, Row (.cmpR r) [op (0xB8 + code r)] 1 4 ∧ exec (.cmpR r) s = .next { compared s (s.reg r) with pc := s.pc + 1 }) ∧
    Row .cmpM [0xBE] 2 7 ∧ Answers .cmpM s { compared s (first s (word s.regs.h s.regs.l)) with pc := s.pc + 1 } ∧
    (∀ v, Row (.cpi v) [0xFE, v] 2 7 ∧ exec (.cpi v) s = .next { compared s v with pc := s.pc + 2 }) ∧
    (∀ v, ((compared s v).flags.z = true ↔ s.regs.a = v) ∧ ((compared s v).flags.cy = true ↔ s.regs.a.toNat < v.toNat))

/-- R213 to R216: RLC and RRC rotate A, RAL and RAR rotate the 9-bit ring of CY and A; no other flag changes. -/
def Obligations.Rotates : Prop :=
  Row .rlc [0x07] 1 4 ∧ Row .rrc [0x0F] 1 4 ∧ Row .ral [0x17] 1 4 ∧ Row .rar [0x1F] 1 4 ∧
  ∀ s : State,
    exec .rlc s = .next
      { withA s (s.regs.a.rotateLeft 1) with flags := { s.flags with cy := s.regs.a.getLsbD 7 }, pc := s.pc + 1 } ∧
    exec .rrc s = .next
      { withA s (s.regs.a.rotateRight 1) with flags := { s.flags with cy := s.regs.a.getLsbD 0 }, pc := s.pc + 1 } ∧
    exec .ral s = .next { withRing s ((ring s).rotateLeft 1) with pc := s.pc + 1 } ∧
    exec .rar s = .next { withRing s ((ring s).rotateRight 1) with pc := s.pc + 1 }

/-- R217 to R219: CMA, CMC, STC. -/
def Obligations.ComplementAndCarry : Prop :=
  Row .cma [0x2F] 1 4 ∧ Row .cmc [0x3F] 1 4 ∧ Row .stc [0x37] 1 4 ∧
  ∀ s : State,
    exec .cma s = .next { withA s (BitVec.ofNat 8 (255 - s.regs.a.toNat)) with pc := s.pc + 1 } ∧
    exec .cmc s = .next { s with flags := { s.flags with cy := !s.flags.cy }, pc := s.pc + 1 } ∧
    exec .stc s = .next { s with flags := { s.flags with cy := true }, pc := s.pc + 1 }

/-! ## Branches -/

/-- R242 to R251, R273: JMP, PCHL and the conditional jumps. -/
def Obligations.Jumps : Prop :=
  (∀ s : State,
    (∀ a, Row (.jmp a) (op16 0xC3 a) 3 10 ∧ exec (.jmp a) s = .next { s with pc := a }) ∧
    Row .pchl [0xE9] 1 6 ∧ exec .pchl s = .next { s with pc := word s.regs.h s.regs.l }) ∧
  JumpsIf .jnz 0xC2 (fun f => !f.z) ∧ JumpsIf .jz 0xCA (fun f => f.z) ∧
  JumpsIf .jnc 0xD2 (fun f => !f.cy) ∧ JumpsIf .jc 0xDA (fun f => f.cy) ∧
  JumpsIf .jpo 0xE2 (fun f => !f.p) ∧ JumpsIf .jpe 0xEA (fun f => f.p) ∧
  JumpsIf .jp 0xF2 (fun f => !f.s) ∧ JumpsIf .jm 0xFA (fun f => f.s)

/-- R252 to R261: CALL and the conditional calls, with the stack in RAM. -/
def Obligations.Calls : Prop :=
  (∀ (a : Word) (s : State), Row (.call a) (op16 0xCD a) 5 18 ∧
    (StackInRam s → Pushes (.call a) s (s.pc + 3) { s with pc := a })) ∧
  CallsIf .cnz 0xC4 (fun f => !f.z) ∧ CallsIf .cz 0xCC (fun f => f.z) ∧
  CallsIf .cnc 0xD4 (fun f => !f.cy) ∧ CallsIf .cc 0xDC (fun f => f.cy) ∧
  CallsIf .cpo 0xE4 (fun f => !f.p) ∧ CallsIf .cpe 0xEC (fun f => f.p) ∧
  CallsIf .cp 0xF4 (fun f => !f.s) ∧ CallsIf .cm 0xFC (fun f => f.s)

/-- R262 to R271: RET and the conditional returns. -/
def Obligations.Returns : Prop :=
  (∀ s : State, Row .ret [0xC9] 3 10 ∧
    Answers .ret s { s with sp := s.sp + 2, pc := word (second s s.sp) (first s s.sp) }) ∧
  ReturnsIf .rnz 0xC0 (fun f => !f.z) ∧ ReturnsIf .rz 0xC8 (fun f => f.z) ∧
  ReturnsIf .rnc 0xD0 (fun f => !f.cy) ∧ ReturnsIf .rc 0xD8 (fun f => f.cy) ∧
  ReturnsIf .rpo 0xE0 (fun f => !f.p) ∧ ReturnsIf .rpe 0xE8 (fun f => f.p) ∧
  ReturnsIf .rp 0xF0 (fun f => !f.s) ∧ ReturnsIf .rm 0xF8 (fun f => f.s)

/-- R95, R272: RST n, with the stack in RAM; the target is byte 1 masked with 0x38. -/
def Obligations.Restart : Prop :=
  ∀ (n : BitVec 3) (s : State), Row (.rst n) [op (0xC7 + 8 * n.toNat)] 3 12 ∧
    (op (0xC7 + 8 * n.toNat) &&& 0x38).toNat = 8 * n.toNat ∧
    (StackInRam s → Pushes (.rst n) s (s.pc + 1) { s with pc := BitVec.ofNat 16 (8 * n.toNat) })

/-! ## Stack, input and output, control -/

/-- R281, R282, R29: PUSH of BC, DE and HL and PUSH PSW, with the stack in RAM. Bits 5, 3 and 1 of the flag byte at SP - 2 are free: the
statement says nothing of them. -/
def Obligations.Pushes : Prop :=
  Row (.push .b) [0xC5] 3 12 ∧ Row (.push .d) [0xD5] 3 12 ∧ Row (.push .h) [0xE5] 3 12 ∧ Row .pushPsw [0xF5] 3 12 ∧
  ∀ s : State, StackInRam s →
    Claims.Pushes (.push .b) s (word s.regs.b s.regs.c) { s with pc := s.pc + 1 } ∧
    Claims.Pushes (.push .d) s (word s.regs.d s.regs.e) { s with pc := s.pc + 1 } ∧
    Claims.Pushes (.push .h) s (word s.regs.h s.regs.l) { s with pc := s.pc + 1 } ∧
    ∃ (f : Byte) (m : Memory) (d : Nat),
      exec .pushPsw s = .next { s with mem := m, sp := s.sp - 2, pc := s.pc + 1, draws := d } ∧
      (∀ a : Word, m.read a.toNat = readAfter s [(s.sp - 2, f), (s.sp - 1, s.regs.a)] a) ∧
      f.getLsbD 7 = s.flags.s ∧ f.getLsbD 6 = s.flags.z ∧ f.getLsbD 4 = s.flags.ac ∧ f.getLsbD 2 = s.flags.p ∧
      f.getLsbD 0 = s.flags.cy

/-- R283, R284: POP of BC, DE and HL and POP PSW, for every kind of region that is read; bits 5, 3 and 1 of the flag byte are ignored. -/
def Obligations.Pops : Prop :=
  Row (.pop .b) [0xC1] 3 10 ∧ Row (.pop .d) [0xD1] 3 10 ∧ Row (.pop .h) [0xE1] 3 10 ∧ Row .popPsw [0xF1] 3 10 ∧
  ∀ s : State,
    Answers (.pop .b) s
      { s with regs := { s.regs with c := first s s.sp, b := second s s.sp }, sp := s.sp + 2, pc := s.pc + 1 } ∧
    Answers (.pop .d) s
      { s with regs := { s.regs with e := first s s.sp, d := second s s.sp }, sp := s.sp + 2, pc := s.pc + 1 } ∧
    Answers (.pop .h) s
      { s with regs := { s.regs with l := first s s.sp, h := second s s.sp }, sp := s.sp + 2, pc := s.pc + 1 } ∧
    Answers .popPsw s
      { withA s (second s s.sp) with
        flags :=
          { s := (first s s.sp).getLsbD 7
            z := (first s s.sp).getLsbD 6
            ac := (first s s.sp).getLsbD 4
            p := (first s s.sp).getLsbD 2
            cy := (first s s.sp).getLsbD 0 }
        sp := s.sp + 2
        pc := s.pc + 1 }

/-- R282: PUSH PSW and a later POP PSW restore A, the five flags and SP, whatever the three fill bits and whatever happened to the rest
of the state in between. -/
def Obligations.PushPopPswRestores : Prop :=
  ∀ s : State, StackInRam s →
    ∃ t, exec .pushPsw s = .next t ∧
      ∀ u : State, u.mem = t.mem → u.memMap = t.memMap → u.sp = t.sp →
        exec .popPsw u = .next { withA u s.regs.a with flags := s.flags, sp := s.sp, pc := u.pc + 1 }

/-- R285, R286: XTHL, with the top of the stack in RAM, and SPHL. -/
def Obligations.ExchangeStackTop : Prop :=
  Row .xthl [0xE3] 5 16 ∧ Row .sphl [0xF9] 1 6 ∧
  ∀ s : State,
    (TopInRam s →
      Stores .xthl s [(s.sp, s.regs.l), (s.sp + 1, s.regs.h)]
        { s with regs := { s.regs with l := s.byteAt s.sp, h := s.byteAt (s.sp + 1) }, pc := s.pc + 1 }) ∧
    exec .sphl s = .next { s with sp := word s.regs.h s.regs.l, pc := s.pc + 1 }

/-- R285: two XTHL in a row restore everything but PC, memory included. -/
def Obligations.XthlTwiceRestores : Prop :=
  ∀ s : State, s.Inv → TopInRam s →
    ∃ t, exec .xthl s = .next t ∧ exec .xthl t = .next { s with pc := s.pc + 2 }

/-- R287, R288: IN puts a value of the environment's in A, of which nothing is said, and OUT records the event (port, A). -/
def Obligations.InputOutput : Prop :=
  ∀ (s : State) (port : Byte),
    Row (.inPort port) [0xDB, port] 3 10 ∧ (∃ v, Answers (.inPort port) s { withA s v with pc := s.pc + 2 }) ∧
    Row (.outPort port) [0xD3, port] 3 10 ∧
    exec (.outPort port) s = .next { s with outputs := s.outputs ++ [.port port s.regs.a], pc := s.pc + 2 }

/-- R289, R290: EI and DI, and the boundary after each, at which no interrupt is taken whatever the lines are (R326), TRAP included, which
is the spec's own decision (D15). What the boundary does with the lines and the queue is the model's choice (log 8, 9, 10). -/
def Obligations.EnableAndDisable : Prop :=
  Row .ei [0xFB] 1 4 ∧ Row .di [0xF3] 1 4 ∧
  ∀ s : State,
    exec .ei s = .next { s with eiPending := true, pc := s.pc + 1 } ∧
    exec .di s = .next { s with inte := false, eiPending := false, pc := s.pc + 1 } ∧
    (Running s → At s .ei → ∃ i75 trapPending,
      step s = .next { s with eiPending := true, pc := s.pc + 1, i75 := i75, trapPending := trapPending, inputs := s.inputs.tail }) ∧
    (Running s → At s .di → ∃ i75 trapPending,
      step s = .next
        { s with
          inte := false
          eiPending := false
          pc := s.pc + 1
          i75 := i75
          trapPending := trapPending
          inputs := s.inputs.tail })

/-- R291, R292: HLT and NOP. -/
def Obligations.HaltAndNop : Prop :=
  Row .hlt [0x76] 1 5 ∧ Row .nop [0x00] 1 4 ∧
  ∀ s : State,
    exec .hlt s = .next { s with halted := true, pc := s.pc + 1 } ∧ exec .nop s = .next { s with pc := s.pc + 1 }

/-- R293: RIM writes A and nothing else. Bits 7, 5 and 4 are the environment's; bit 3 is INTE except right after EI and in the first
RIM after a TRAP, where it is the free value that the counter names. The mark of that first RIM is the model's own (log 6) and is
used up. -/
def Obligations.ReadInterruptMask : Prop :=
  Row .rim [0x20] 1 4 ∧
  ∀ s : State, ∃ v : Byte,
    Answers .rim s { withA s v with pc := s.pc + 1, trapRim := false } ∧
    v.getLsbD 6 = s.i75 ∧ v.getLsbD 2 = s.m75 ∧ v.getLsbD 1 = s.m65 ∧ v.getLsbD 0 = s.m55 ∧
    (s.eiPending = false → s.trapRim = false → v.getLsbD 3 = s.inte) ∧
    (s.eiPending = true ∨ s.trapRim = true → v.getLsbD 3 = Config.rimEnableBit s.draws)

/-- R294: SIM. -/
def Obligations.SetInterruptMask : Prop :=
  Row .sim [0x30] 1 4 ∧
  ∀ s : State,
    exec .sim s = .next
      { s with
        m75 := if s.regs.a.getLsbD 3 then s.regs.a.getLsbD 2 else s.m75
        m65 := if s.regs.a.getLsbD 3 then s.regs.a.getLsbD 1 else s.m65
        m55 := if s.regs.a.getLsbD 3 then s.regs.a.getLsbD 0 else s.m55
        i75 := s.i75 && !s.regs.a.getLsbD 4
        sod := if s.regs.a.getLsbD 6 then s.regs.a.getLsbD 7 else s.sod
        pc := s.pc + 1 }

end Statements
end

