-- ==== Sys2Proof/Laws/Memory.lean ====
section
/-! SUPPORT. Memory as data: a read after a write, and the canonical form that every memory operation keeps. -/

namespace Sys2Proof.Machine

@[simp] theorem Memory.read_nil (a : Nat) : Memory.read [] a = Config.unwrittenByte := rfl

theorem Memory.read_insertCell_self (a : Nat) (v : Byte) (m : Memory) (h : ∀ c ∈ m, c.1 ≠ a) :
    Memory.read (Memory.insertCell a v m) a = v := by
  induction m with
  | nil => simp [Memory.insertCell, Memory.read]
  | cons c m ih =>
    obtain ⟨x, w⟩ := c
    have hx : x ≠ a := h (x, w) (by simp)
    unfold Memory.insertCell
    split
    · simp [Memory.read]
    · simp only [Memory.read, hx, if_false]
      exact ih fun c hc => h c (by simp [hc])

theorem Memory.read_insertCell_other (a b : Nat) (v : Byte) (m : Memory) (h : b ≠ a) :
    Memory.read (Memory.insertCell a v m) b = Memory.read m b := by
  induction m with
  | nil => simp [Memory.insertCell, Memory.read, h.symm]
  | cons c m ih =>
    obtain ⟨x, w⟩ := c
    unfold Memory.insertCell
    split
    · simp [Memory.read, h.symm]
    · simp only [Memory.read, ih]

theorem Memory.read_filter_self (a : Nat) (m : Memory) :
    Memory.read (m.filter fun c => c.1 != a) a = Config.unwrittenByte := by
  induction m with
  | nil => rfl
  | cons c m ih =>
    obtain ⟨x, w⟩ := c
    by_cases hx : x = a
    · simpa [hx] using ih
    · simpa [hx, Memory.read] using ih

theorem Memory.read_filter_other (a b : Nat) (m : Memory) (h : b ≠ a) :
    Memory.read (m.filter fun c => c.1 != a) b = Memory.read m b := by
  induction m with
  | nil => rfl
  | cons c m ih =>
    obtain ⟨x, w⟩ := c
    by_cases hx : x = a
    · simp only [List.filter_cons, hx, bne_self_eq_false, Bool.false_eq_true, if_false, ih, Memory.read, h.symm]
    · simp [hx, Memory.read, ih]

/-- A read of the address just written gives the byte written (R61), on any cell list. -/
@[simp] theorem Memory.read_write_self (m : Memory) (a : Nat) (v : Byte) : (m.write a v).read a = v := by
  unfold Memory.write
  split
  · rename_i h
    rw [h]
    exact Memory.read_filter_self a m
  · exact Memory.read_insertCell_self a v _ (by simp)

/-- A write leaves every other address alone (R61), on any cell list. -/
theorem Memory.read_write_other (m : Memory) (a b : Nat) (v : Byte) (h : b ≠ a) :
    (m.write a v).read b = m.read b := by
  unfold Memory.write
  split
  · exact Memory.read_filter_other a b m h
  · rw [Memory.read_insertCell_other a b v _ h, Memory.read_filter_other a b m h]

/-- The two cases of a read after a write. -/
theorem Memory.read_write (m : Memory) (a b : Nat) (v : Byte) :
    (m.write a v).read b = if b = a then v else m.read b := by
  split
  · rename_i h
    rw [h, Memory.read_write_self]
  · rename_i h
    exact Memory.read_write_other m a b v h

/-! ### The canonical form -/

@[simp] theorem Memory.wf_nil : Memory.wf [] = true := rfl

theorem Memory.wf_cons (a : Nat) (v : Byte) (m : Memory) :
    Memory.wf ((a, v) :: m) = true ↔
      a < 65536 ∧ v ≠ Config.unwrittenByte ∧ (∀ c ∈ m, a < c.1) ∧ Memory.wf m = true := by
  simp [Memory.wf, and_assoc]

theorem Memory.wf_filter (p : Host.Cell → Bool) (m : Memory) (h : Memory.wf m = true) : Memory.wf (m.filter p) = true := by
  induction m with
  | nil => rfl
  | cons c m ih =>
    obtain ⟨x, w⟩ := c
    rw [Memory.wf_cons] at h
    obtain ⟨h1, h2, h3, h4⟩ := h
    rw [List.filter_cons]
    split
    · rw [Memory.wf_cons]
      exact ⟨h1, h2, fun c hc => h3 c (List.mem_of_mem_filter hc), ih h4⟩
    · exact ih h4

theorem Memory.mem_insertCell (a : Nat) (v : Byte) (m : Memory) (c : Host.Cell) :
    c ∈ Memory.insertCell a v m ↔ c = (a, v) ∨ c ∈ m := by
  induction m with
  | nil => simp [Memory.insertCell]
  | cons d m ih =>
    obtain ⟨x, w⟩ := d
    unfold Memory.insertCell
    split
    · simp
    · simp only [List.mem_cons, ih]
      tauto

theorem Memory.wf_insertCell (a : Nat) (v : Byte) (m : Memory) (ha : a < 65536) (hv : v ≠ Config.unwrittenByte)
    (hm : ∀ c ∈ m, c.1 ≠ a) (h : Memory.wf m = true) : Memory.wf (Memory.insertCell a v m) = true := by
  induction m with
  | nil => simp [Memory.insertCell, Memory.wf_cons, ha, hv]
  | cons c m ih =>
    obtain ⟨x, w⟩ := c
    have h' := h
    rw [Memory.wf_cons] at h'
    obtain ⟨h1, h2, h3, h4⟩ := h'
    have hx : x ≠ a := hm (x, w) (by simp)
    unfold Memory.insertCell
    split
    · rename_i hlt
      rw [Memory.wf_cons]
      refine ⟨ha, hv, ?_, h⟩
      intro c hc
      rcases List.mem_cons.mp hc with rfl | hc
      · exact hlt
      · exact lt_trans hlt (h3 c hc)
    · rename_i hlt
      rw [Memory.wf_cons]
      refine ⟨h1, h2, ?_, ih (fun c hc => hm c (by simp [hc])) h4⟩
      intro c hc
      rcases (Memory.mem_insertCell a v m c).mp hc with rfl | hc
      · omega
      · exact h3 c hc

/-- A write inside the address space keeps the canonical form. -/
theorem Memory.wf_write (m : Memory) (a : Nat) (v : Byte) (ha : a < 65536) (h : m.wf = true) : (m.write a v).wf = true := by
  unfold Memory.write
  split
  · exact Memory.wf_filter _ m h
  · rename_i hv
    exact Memory.wf_insertCell a v _ ha hv (by simp) (Memory.wf_filter _ m h)

end Sys2Proof.Machine
end

