-- ==== Sys2Proof/Laws/State.lean ====
section
/-! SUPPORT. One lemma per field per update of State, so that no proof unfolds a record update. -/

namespace Sys2Proof.Machine

variable (s : State)

/-! ### setReg -/

@[simp] theorem State.setReg_regs (r : Reg) (v : Byte) : (s.setReg r v).regs = s.regs.set r v := rfl
@[simp] theorem State.setReg_flags (r : Reg) (v : Byte) : (s.setReg r v).flags = s.flags := rfl
@[simp] theorem State.setReg_sp (r : Reg) (v : Byte) : (s.setReg r v).sp = s.sp := rfl
@[simp] theorem State.setReg_pc (r : Reg) (v : Byte) : (s.setReg r v).pc = s.pc := rfl
@[simp] theorem State.setReg_inte (r : Reg) (v : Byte) : (s.setReg r v).inte = s.inte := rfl
@[simp] theorem State.setReg_eiPending (r : Reg) (v : Byte) : (s.setReg r v).eiPending = s.eiPending := rfl
@[simp] theorem State.setReg_halted (r : Reg) (v : Byte) : (s.setReg r v).halted = s.halted := rfl
@[simp] theorem State.setReg_m75 (r : Reg) (v : Byte) : (s.setReg r v).m75 = s.m75 := rfl
@[simp] theorem State.setReg_m65 (r : Reg) (v : Byte) : (s.setReg r v).m65 = s.m65 := rfl
@[simp] theorem State.setReg_m55 (r : Reg) (v : Byte) : (s.setReg r v).m55 = s.m55 := rfl
@[simp] theorem State.setReg_i75 (r : Reg) (v : Byte) : (s.setReg r v).i75 = s.i75 := rfl
@[simp] theorem State.setReg_sod (r : Reg) (v : Byte) : (s.setReg r v).sod = s.sod := rfl
@[simp] theorem State.setReg_trapPending (r : Reg) (v : Byte) : (s.setReg r v).trapPending = s.trapPending := rfl
@[simp] theorem State.setReg_mem (r : Reg) (v : Byte) : (s.setReg r v).mem = s.mem := rfl
@[simp] theorem State.setReg_params (r : Reg) (v : Byte) : (s.setReg r v).params = s.params := rfl
@[simp] theorem State.setReg_memMap (r : Reg) (v : Byte) : (s.setReg r v).memMap = s.memMap := rfl
@[simp] theorem State.setReg_outputs (r : Reg) (v : Byte) : (s.setReg r v).outputs = s.outputs := rfl
@[simp] theorem State.setReg_inputs (r : Reg) (v : Byte) : (s.setReg r v).inputs = s.inputs := rfl
@[simp] theorem State.setReg_draws (r : Reg) (v : Byte) : (s.setReg r v).draws = s.draws := rfl
@[simp] theorem State.setReg_trapRim (r : Reg) (v : Byte) : (s.setReg r v).trapRim = s.trapRim := rfl

/-! ### setPair -/

@[simp] theorem State.setPair_flags (p : Pair) (v : Word) : (s.setPair p v).flags = s.flags := by cases p <;> rfl
@[simp] theorem State.setPair_pc (p : Pair) (v : Word) : (s.setPair p v).pc = s.pc := by cases p <;> rfl
@[simp] theorem State.setPair_inte (p : Pair) (v : Word) : (s.setPair p v).inte = s.inte := by cases p <;> rfl
@[simp] theorem State.setPair_eiPending (p : Pair) (v : Word) : (s.setPair p v).eiPending = s.eiPending := by cases p <;> rfl
@[simp] theorem State.setPair_halted (p : Pair) (v : Word) : (s.setPair p v).halted = s.halted := by cases p <;> rfl
@[simp] theorem State.setPair_m75 (p : Pair) (v : Word) : (s.setPair p v).m75 = s.m75 := by cases p <;> rfl
@[simp] theorem State.setPair_m65 (p : Pair) (v : Word) : (s.setPair p v).m65 = s.m65 := by cases p <;> rfl
@[simp] theorem State.setPair_m55 (p : Pair) (v : Word) : (s.setPair p v).m55 = s.m55 := by cases p <;> rfl
@[simp] theorem State.setPair_i75 (p : Pair) (v : Word) : (s.setPair p v).i75 = s.i75 := by cases p <;> rfl
@[simp] theorem State.setPair_sod (p : Pair) (v : Word) : (s.setPair p v).sod = s.sod := by cases p <;> rfl
@[simp] theorem State.setPair_trapPending (p : Pair) (v : Word) : (s.setPair p v).trapPending = s.trapPending := by cases p <;> rfl
@[simp] theorem State.setPair_mem (p : Pair) (v : Word) : (s.setPair p v).mem = s.mem := by cases p <;> rfl
@[simp] theorem State.setPair_params (p : Pair) (v : Word) : (s.setPair p v).params = s.params := by cases p <;> rfl
@[simp] theorem State.setPair_memMap (p : Pair) (v : Word) : (s.setPair p v).memMap = s.memMap := by cases p <;> rfl
@[simp] theorem State.setPair_outputs (p : Pair) (v : Word) : (s.setPair p v).outputs = s.outputs := by cases p <;> rfl
@[simp] theorem State.setPair_inputs (p : Pair) (v : Word) : (s.setPair p v).inputs = s.inputs := by cases p <;> rfl
@[simp] theorem State.setPair_draws (p : Pair) (v : Word) : (s.setPair p v).draws = s.draws := by cases p <;> rfl
@[simp] theorem State.setPair_trapRim (p : Pair) (v : Word) : (s.setPair p v).trapRim = s.trapRim := by cases p <;> rfl

/-! ### advance -/

@[simp] theorem State.advance_regs (len : Nat) : (s.advance len).regs = s.regs := rfl
@[simp] theorem State.advance_flags (len : Nat) : (s.advance len).flags = s.flags := rfl
@[simp] theorem State.advance_sp (len : Nat) : (s.advance len).sp = s.sp := rfl
@[simp] theorem State.advance_pc (len : Nat) : (s.advance len).pc = s.nextPc len := rfl
@[simp] theorem State.advance_inte (len : Nat) : (s.advance len).inte = s.inte := rfl
@[simp] theorem State.advance_eiPending (len : Nat) : (s.advance len).eiPending = s.eiPending := rfl
@[simp] theorem State.advance_halted (len : Nat) : (s.advance len).halted = s.halted := rfl
@[simp] theorem State.advance_m75 (len : Nat) : (s.advance len).m75 = s.m75 := rfl
@[simp] theorem State.advance_m65 (len : Nat) : (s.advance len).m65 = s.m65 := rfl
@[simp] theorem State.advance_m55 (len : Nat) : (s.advance len).m55 = s.m55 := rfl
@[simp] theorem State.advance_i75 (len : Nat) : (s.advance len).i75 = s.i75 := rfl
@[simp] theorem State.advance_sod (len : Nat) : (s.advance len).sod = s.sod := rfl
@[simp] theorem State.advance_trapPending (len : Nat) : (s.advance len).trapPending = s.trapPending := rfl
@[simp] theorem State.advance_mem (len : Nat) : (s.advance len).mem = s.mem := rfl
@[simp] theorem State.advance_params (len : Nat) : (s.advance len).params = s.params := rfl
@[simp] theorem State.advance_memMap (len : Nat) : (s.advance len).memMap = s.memMap := rfl
@[simp] theorem State.advance_outputs (len : Nat) : (s.advance len).outputs = s.outputs := rfl
@[simp] theorem State.advance_inputs (len : Nat) : (s.advance len).inputs = s.inputs := rfl
@[simp] theorem State.advance_draws (len : Nat) : (s.advance len).draws = s.draws := rfl
@[simp] theorem State.advance_trapRim (len : Nat) : (s.advance len).trapRim = s.trapRim := rfl

/-! ### accumulate -/

@[simp] theorem State.accumulate_regs (x : Alu) : (s.accumulate x).regs = { s.regs with a := x.res } := rfl
@[simp] theorem State.accumulate_flags (x : Alu) : (s.accumulate x).flags = s.flags.ofAlu x := rfl
@[simp] theorem State.accumulate_sp (x : Alu) : (s.accumulate x).sp = s.sp := rfl
@[simp] theorem State.accumulate_pc (x : Alu) : (s.accumulate x).pc = s.pc := rfl
@[simp] theorem State.accumulate_inte (x : Alu) : (s.accumulate x).inte = s.inte := rfl
@[simp] theorem State.accumulate_eiPending (x : Alu) : (s.accumulate x).eiPending = s.eiPending := rfl
@[simp] theorem State.accumulate_halted (x : Alu) : (s.accumulate x).halted = s.halted := rfl
@[simp] theorem State.accumulate_m75 (x : Alu) : (s.accumulate x).m75 = s.m75 := rfl
@[simp] theorem State.accumulate_m65 (x : Alu) : (s.accumulate x).m65 = s.m65 := rfl
@[simp] theorem State.accumulate_m55 (x : Alu) : (s.accumulate x).m55 = s.m55 := rfl
@[simp] theorem State.accumulate_i75 (x : Alu) : (s.accumulate x).i75 = s.i75 := rfl
@[simp] theorem State.accumulate_sod (x : Alu) : (s.accumulate x).sod = s.sod := rfl
@[simp] theorem State.accumulate_trapPending (x : Alu) : (s.accumulate x).trapPending = s.trapPending := rfl
@[simp] theorem State.accumulate_mem (x : Alu) : (s.accumulate x).mem = s.mem := rfl
@[simp] theorem State.accumulate_params (x : Alu) : (s.accumulate x).params = s.params := rfl
@[simp] theorem State.accumulate_memMap (x : Alu) : (s.accumulate x).memMap = s.memMap := rfl
@[simp] theorem State.accumulate_outputs (x : Alu) : (s.accumulate x).outputs = s.outputs := rfl
@[simp] theorem State.accumulate_inputs (x : Alu) : (s.accumulate x).inputs = s.inputs := rfl
@[simp] theorem State.accumulate_draws (x : Alu) : (s.accumulate x).draws = s.draws := rfl
@[simp] theorem State.accumulate_trapRim (x : Alu) : (s.accumulate x).trapRim = s.trapRim := rfl

/-! ### compareFlags -/

@[simp] theorem State.compareFlags_regs (x : Alu) : (s.compareFlags x).regs = s.regs := rfl
@[simp] theorem State.compareFlags_flags (x : Alu) : (s.compareFlags x).flags = s.flags.ofAlu x := rfl
@[simp] theorem State.compareFlags_sp (x : Alu) : (s.compareFlags x).sp = s.sp := rfl
@[simp] theorem State.compareFlags_pc (x : Alu) : (s.compareFlags x).pc = s.pc := rfl
@[simp] theorem State.compareFlags_inte (x : Alu) : (s.compareFlags x).inte = s.inte := rfl
@[simp] theorem State.compareFlags_eiPending (x : Alu) : (s.compareFlags x).eiPending = s.eiPending := rfl
@[simp] theorem State.compareFlags_halted (x : Alu) : (s.compareFlags x).halted = s.halted := rfl
@[simp] theorem State.compareFlags_m75 (x : Alu) : (s.compareFlags x).m75 = s.m75 := rfl
@[simp] theorem State.compareFlags_m65 (x : Alu) : (s.compareFlags x).m65 = s.m65 := rfl
@[simp] theorem State.compareFlags_m55 (x : Alu) : (s.compareFlags x).m55 = s.m55 := rfl
@[simp] theorem State.compareFlags_i75 (x : Alu) : (s.compareFlags x).i75 = s.i75 := rfl
@[simp] theorem State.compareFlags_sod (x : Alu) : (s.compareFlags x).sod = s.sod := rfl
@[simp] theorem State.compareFlags_trapPending (x : Alu) : (s.compareFlags x).trapPending = s.trapPending := rfl
@[simp] theorem State.compareFlags_mem (x : Alu) : (s.compareFlags x).mem = s.mem := rfl
@[simp] theorem State.compareFlags_params (x : Alu) : (s.compareFlags x).params = s.params := rfl
@[simp] theorem State.compareFlags_memMap (x : Alu) : (s.compareFlags x).memMap = s.memMap := rfl
@[simp] theorem State.compareFlags_outputs (x : Alu) : (s.compareFlags x).outputs = s.outputs := rfl
@[simp] theorem State.compareFlags_inputs (x : Alu) : (s.compareFlags x).inputs = s.inputs := rfl
@[simp] theorem State.compareFlags_draws (x : Alu) : (s.compareFlags x).draws = s.draws := rfl
@[simp] theorem State.compareFlags_trapRim (x : Alu) : (s.compareFlags x).trapRim = s.trapRim := rfl

/-! ### accumulateLogic -/

@[simp] theorem State.accumulateLogic_regs (v : Byte) (ac : Bool) : (s.accumulateLogic v ac).regs = { s.regs with a := v } := rfl
@[simp] theorem State.accumulateLogic_flags (v : Byte) (ac : Bool) : (s.accumulateLogic v ac).flags = s.flags.ofLogic v ac := rfl
@[simp] theorem State.accumulateLogic_sp (v : Byte) (ac : Bool) : (s.accumulateLogic v ac).sp = s.sp := rfl
@[simp] theorem State.accumulateLogic_pc (v : Byte) (ac : Bool) : (s.accumulateLogic v ac).pc = s.pc := rfl
@[simp] theorem State.accumulateLogic_inte (v : Byte) (ac : Bool) : (s.accumulateLogic v ac).inte = s.inte := rfl
@[simp] theorem State.accumulateLogic_eiPending (v : Byte) (ac : Bool) : (s.accumulateLogic v ac).eiPending = s.eiPending := rfl
@[simp] theorem State.accumulateLogic_halted (v : Byte) (ac : Bool) : (s.accumulateLogic v ac).halted = s.halted := rfl
@[simp] theorem State.accumulateLogic_m75 (v : Byte) (ac : Bool) : (s.accumulateLogic v ac).m75 = s.m75 := rfl
@[simp] theorem State.accumulateLogic_m65 (v : Byte) (ac : Bool) : (s.accumulateLogic v ac).m65 = s.m65 := rfl
@[simp] theorem State.accumulateLogic_m55 (v : Byte) (ac : Bool) : (s.accumulateLogic v ac).m55 = s.m55 := rfl
@[simp] theorem State.accumulateLogic_i75 (v : Byte) (ac : Bool) : (s.accumulateLogic v ac).i75 = s.i75 := rfl
@[simp] theorem State.accumulateLogic_sod (v : Byte) (ac : Bool) : (s.accumulateLogic v ac).sod = s.sod := rfl
@[simp] theorem State.accumulateLogic_trapPending (v : Byte) (ac : Bool) : (s.accumulateLogic v ac).trapPending = s.trapPending := rfl
@[simp] theorem State.accumulateLogic_mem (v : Byte) (ac : Bool) : (s.accumulateLogic v ac).mem = s.mem := rfl
@[simp] theorem State.accumulateLogic_params (v : Byte) (ac : Bool) : (s.accumulateLogic v ac).params = s.params := rfl
@[simp] theorem State.accumulateLogic_memMap (v : Byte) (ac : Bool) : (s.accumulateLogic v ac).memMap = s.memMap := rfl
@[simp] theorem State.accumulateLogic_outputs (v : Byte) (ac : Bool) : (s.accumulateLogic v ac).outputs = s.outputs := rfl
@[simp] theorem State.accumulateLogic_inputs (v : Byte) (ac : Bool) : (s.accumulateLogic v ac).inputs = s.inputs := rfl
@[simp] theorem State.accumulateLogic_draws (v : Byte) (ac : Bool) : (s.accumulateLogic v ac).draws = s.draws := rfl
@[simp] theorem State.accumulateLogic_trapRim (v : Byte) (ac : Bool) : (s.accumulateLogic v ac).trapRim = s.trapRim := rfl

/-! ### accumulateRotated -/

@[simp] theorem State.accumulateRotated_regs (x : Rotated) : (s.accumulateRotated x).regs = { s.regs with a := x.res } := rfl
@[simp] theorem State.accumulateRotated_flags (x : Rotated) : (s.accumulateRotated x).flags = { s.flags with cy := x.cy } := rfl
@[simp] theorem State.accumulateRotated_sp (x : Rotated) : (s.accumulateRotated x).sp = s.sp := rfl
@[simp] theorem State.accumulateRotated_pc (x : Rotated) : (s.accumulateRotated x).pc = s.pc := rfl
@[simp] theorem State.accumulateRotated_inte (x : Rotated) : (s.accumulateRotated x).inte = s.inte := rfl
@[simp] theorem State.accumulateRotated_eiPending (x : Rotated) : (s.accumulateRotated x).eiPending = s.eiPending := rfl
@[simp] theorem State.accumulateRotated_halted (x : Rotated) : (s.accumulateRotated x).halted = s.halted := rfl
@[simp] theorem State.accumulateRotated_m75 (x : Rotated) : (s.accumulateRotated x).m75 = s.m75 := rfl
@[simp] theorem State.accumulateRotated_m65 (x : Rotated) : (s.accumulateRotated x).m65 = s.m65 := rfl
@[simp] theorem State.accumulateRotated_m55 (x : Rotated) : (s.accumulateRotated x).m55 = s.m55 := rfl
@[simp] theorem State.accumulateRotated_i75 (x : Rotated) : (s.accumulateRotated x).i75 = s.i75 := rfl
@[simp] theorem State.accumulateRotated_sod (x : Rotated) : (s.accumulateRotated x).sod = s.sod := rfl
@[simp] theorem State.accumulateRotated_trapPending (x : Rotated) : (s.accumulateRotated x).trapPending = s.trapPending := rfl
@[simp] theorem State.accumulateRotated_mem (x : Rotated) : (s.accumulateRotated x).mem = s.mem := rfl
@[simp] theorem State.accumulateRotated_params (x : Rotated) : (s.accumulateRotated x).params = s.params := rfl
@[simp] theorem State.accumulateRotated_memMap (x : Rotated) : (s.accumulateRotated x).memMap = s.memMap := rfl
@[simp] theorem State.accumulateRotated_outputs (x : Rotated) : (s.accumulateRotated x).outputs = s.outputs := rfl
@[simp] theorem State.accumulateRotated_inputs (x : Rotated) : (s.accumulateRotated x).inputs = s.inputs := rfl
@[simp] theorem State.accumulateRotated_draws (x : Rotated) : (s.accumulateRotated x).draws = s.draws := rfl
@[simp] theorem State.accumulateRotated_trapRim (x : Rotated) : (s.accumulateRotated x).trapRim = s.trapRim := rfl

/-! ### portWrite -/

@[simp] theorem State.portWrite_regs (p v : Byte) : (s.portWrite p v).regs = s.regs := rfl
@[simp] theorem State.portWrite_flags (p v : Byte) : (s.portWrite p v).flags = s.flags := rfl
@[simp] theorem State.portWrite_sp (p v : Byte) : (s.portWrite p v).sp = s.sp := rfl
@[simp] theorem State.portWrite_pc (p v : Byte) : (s.portWrite p v).pc = s.pc := rfl
@[simp] theorem State.portWrite_inte (p v : Byte) : (s.portWrite p v).inte = s.inte := rfl
@[simp] theorem State.portWrite_eiPending (p v : Byte) : (s.portWrite p v).eiPending = s.eiPending := rfl
@[simp] theorem State.portWrite_halted (p v : Byte) : (s.portWrite p v).halted = s.halted := rfl
@[simp] theorem State.portWrite_m75 (p v : Byte) : (s.portWrite p v).m75 = s.m75 := rfl
@[simp] theorem State.portWrite_m65 (p v : Byte) : (s.portWrite p v).m65 = s.m65 := rfl
@[simp] theorem State.portWrite_m55 (p v : Byte) : (s.portWrite p v).m55 = s.m55 := rfl
@[simp] theorem State.portWrite_i75 (p v : Byte) : (s.portWrite p v).i75 = s.i75 := rfl
@[simp] theorem State.portWrite_sod (p v : Byte) : (s.portWrite p v).sod = s.sod := rfl
@[simp] theorem State.portWrite_trapPending (p v : Byte) : (s.portWrite p v).trapPending = s.trapPending := rfl
@[simp] theorem State.portWrite_mem (p v : Byte) : (s.portWrite p v).mem = s.mem := rfl
@[simp] theorem State.portWrite_params (p v : Byte) : (s.portWrite p v).params = s.params := rfl
@[simp] theorem State.portWrite_memMap (p v : Byte) : (s.portWrite p v).memMap = s.memMap := rfl
@[simp] theorem State.portWrite_outputs (p v : Byte) : (s.portWrite p v).outputs = s.outputs ++ [.port p v] := rfl
@[simp] theorem State.portWrite_inputs (p v : Byte) : (s.portWrite p v).inputs = s.inputs := rfl
@[simp] theorem State.portWrite_draws (p v : Byte) : (s.portWrite p v).draws = s.draws := rfl
@[simp] theorem State.portWrite_trapRim (p v : Byte) : (s.portWrite p v).trapRim = s.trapRim := rfl

/-! ### acknowledge -/

@[simp] theorem State.acknowledge_regs (k : IntSource) : (s.acknowledge k).regs = s.regs := rfl
@[simp] theorem State.acknowledge_flags (k : IntSource) : (s.acknowledge k).flags = s.flags := rfl
@[simp] theorem State.acknowledge_sp (k : IntSource) : (s.acknowledge k).sp = s.sp := rfl
@[simp] theorem State.acknowledge_pc (k : IntSource) : (s.acknowledge k).pc = s.pc := rfl
@[simp] theorem State.acknowledge_inte (k : IntSource) : (s.acknowledge k).inte = false := rfl
@[simp] theorem State.acknowledge_eiPending (k : IntSource) : (s.acknowledge k).eiPending = false := rfl
@[simp] theorem State.acknowledge_halted (k : IntSource) : (s.acknowledge k).halted = false := rfl
@[simp] theorem State.acknowledge_m75 (k : IntSource) : (s.acknowledge k).m75 = s.m75 := rfl
@[simp] theorem State.acknowledge_m65 (k : IntSource) : (s.acknowledge k).m65 = s.m65 := rfl
@[simp] theorem State.acknowledge_m55 (k : IntSource) : (s.acknowledge k).m55 = s.m55 := rfl
@[simp] theorem State.acknowledge_i75 (k : IntSource) : (s.acknowledge k).i75 = (s.i75 && k != .rst75) := rfl
@[simp] theorem State.acknowledge_sod (k : IntSource) : (s.acknowledge k).sod = s.sod := rfl
@[simp] theorem State.acknowledge_trapPending (k : IntSource) : (s.acknowledge k).trapPending = (s.trapPending && k != .trap) := rfl
@[simp] theorem State.acknowledge_mem (k : IntSource) : (s.acknowledge k).mem = s.mem := rfl
@[simp] theorem State.acknowledge_params (k : IntSource) : (s.acknowledge k).params = s.params := rfl
@[simp] theorem State.acknowledge_memMap (k : IntSource) : (s.acknowledge k).memMap = s.memMap := rfl
@[simp] theorem State.acknowledge_outputs (k : IntSource) : (s.acknowledge k).outputs = s.outputs := rfl
@[simp] theorem State.acknowledge_inputs (k : IntSource) : (s.acknowledge k).inputs = s.inputs := rfl
@[simp] theorem State.acknowledge_draws (k : IntSource) : (s.acknowledge k).draws = s.draws := rfl
@[simp] theorem State.acknowledge_trapRim (k : IntSource) : (s.acknowledge k).trapRim = (s.trapRim || k == .trap) := rfl

/-! ### sampleLines -/

@[simp] theorem State.sampleLines_regs (inp : BoundaryInput) : (s.sampleLines inp).regs = s.regs := rfl
@[simp] theorem State.sampleLines_flags (inp : BoundaryInput) : (s.sampleLines inp).flags = s.flags := rfl
@[simp] theorem State.sampleLines_sp (inp : BoundaryInput) : (s.sampleLines inp).sp = s.sp := rfl
@[simp] theorem State.sampleLines_pc (inp : BoundaryInput) : (s.sampleLines inp).pc = s.pc := rfl
@[simp] theorem State.sampleLines_inte (inp : BoundaryInput) : (s.sampleLines inp).inte = s.inte := rfl
@[simp] theorem State.sampleLines_eiPending (inp : BoundaryInput) : (s.sampleLines inp).eiPending = s.eiPending := rfl
@[simp] theorem State.sampleLines_halted (inp : BoundaryInput) : (s.sampleLines inp).halted = s.halted := rfl
@[simp] theorem State.sampleLines_m75 (inp : BoundaryInput) : (s.sampleLines inp).m75 = s.m75 := rfl
@[simp] theorem State.sampleLines_m65 (inp : BoundaryInput) : (s.sampleLines inp).m65 = s.m65 := rfl
@[simp] theorem State.sampleLines_m55 (inp : BoundaryInput) : (s.sampleLines inp).m55 = s.m55 := rfl
@[simp] theorem State.sampleLines_i75 (inp : BoundaryInput) :
    (s.sampleLines inp).i75 = (s.i75 || (inp.rst75Edge && s.hasInput .rst75)) := rfl
@[simp] theorem State.sampleLines_sod (inp : BoundaryInput) : (s.sampleLines inp).sod = s.sod := rfl
@[simp] theorem State.sampleLines_trapPending (inp : BoundaryInput) : (s.sampleLines inp).trapPending =
    ((s.trapPending || (inp.trapEdge && s.hasInput .trap)) && inp.trapLevel) := rfl
@[simp] theorem State.sampleLines_mem (inp : BoundaryInput) : (s.sampleLines inp).mem = s.mem := rfl
@[simp] theorem State.sampleLines_params (inp : BoundaryInput) : (s.sampleLines inp).params = s.params := rfl
@[simp] theorem State.sampleLines_memMap (inp : BoundaryInput) : (s.sampleLines inp).memMap = s.memMap := rfl
@[simp] theorem State.sampleLines_outputs (inp : BoundaryInput) : (s.sampleLines inp).outputs = s.outputs := rfl
@[simp] theorem State.sampleLines_inputs (inp : BoundaryInput) : (s.sampleLines inp).inputs = s.inputs.tail := rfl
@[simp] theorem State.sampleLines_draws (inp : BoundaryInput) : (s.sampleLines inp).draws = s.draws := rfl
@[simp] theorem State.sampleLines_trapRim (inp : BoundaryInput) : (s.sampleLines inp).trapRim = s.trapRim := rfl

/-! ### applyReset -/

@[simp] theorem State.applyReset_sp : (s.applyReset).sp = Config.resetSp s.draws := rfl
@[simp] theorem State.applyReset_pc : (s.applyReset).pc = s.params.resetPc := rfl
@[simp] theorem State.applyReset_inte : (s.applyReset).inte = false := rfl
@[simp] theorem State.applyReset_eiPending : (s.applyReset).eiPending = false := rfl
@[simp] theorem State.applyReset_halted : (s.applyReset).halted = false := rfl
@[simp] theorem State.applyReset_m75 : (s.applyReset).m75 = true := rfl
@[simp] theorem State.applyReset_m65 : (s.applyReset).m65 = true := rfl
@[simp] theorem State.applyReset_m55 : (s.applyReset).m55 = true := rfl
@[simp] theorem State.applyReset_i75 : (s.applyReset).i75 = false := rfl
@[simp] theorem State.applyReset_sod : (s.applyReset).sod = false := rfl
@[simp] theorem State.applyReset_trapPending : (s.applyReset).trapPending = false := rfl
@[simp] theorem State.applyReset_mem : (s.applyReset).mem = s.mem := rfl
@[simp] theorem State.applyReset_params : (s.applyReset).params = s.params := rfl
@[simp] theorem State.applyReset_memMap : (s.applyReset).memMap = s.memMap := rfl
@[simp] theorem State.applyReset_outputs : (s.applyReset).outputs = s.outputs := rfl
@[simp] theorem State.applyReset_inputs : (s.applyReset).inputs = s.inputs.tail := rfl
@[simp] theorem State.applyReset_draws : (s.applyReset).draws = s.draws + 1 := rfl
@[simp] theorem State.applyReset_trapRim : (s.applyReset).trapRim = false := rfl

/-! ### endInstruction: only INTE and ei_pending may change -/

@[simp] theorem State.endInstruction_regs (i : Instr) (p : Bool) : (s.endInstruction i p).regs = s.regs := by
  unfold State.endInstruction; split <;> (try split) <;> rfl
@[simp] theorem State.endInstruction_flags (i : Instr) (p : Bool) : (s.endInstruction i p).flags = s.flags := by
  unfold State.endInstruction; split <;> (try split) <;> rfl
@[simp] theorem State.endInstruction_sp (i : Instr) (p : Bool) : (s.endInstruction i p).sp = s.sp := by
  unfold State.endInstruction; split <;> (try split) <;> rfl
@[simp] theorem State.endInstruction_pc (i : Instr) (p : Bool) : (s.endInstruction i p).pc = s.pc := by
  unfold State.endInstruction; split <;> (try split) <;> rfl
@[simp] theorem State.endInstruction_halted (i : Instr) (p : Bool) : (s.endInstruction i p).halted = s.halted := by
  unfold State.endInstruction; split <;> (try split) <;> rfl
@[simp] theorem State.endInstruction_m75 (i : Instr) (p : Bool) : (s.endInstruction i p).m75 = s.m75 := by
  unfold State.endInstruction; split <;> (try split) <;> rfl
@[simp] theorem State.endInstruction_m65 (i : Instr) (p : Bool) : (s.endInstruction i p).m65 = s.m65 := by
  unfold State.endInstruction; split <;> (try split) <;> rfl
@[simp] theorem State.endInstruction_m55 (i : Instr) (p : Bool) : (s.endInstruction i p).m55 = s.m55 := by
  unfold State.endInstruction; split <;> (try split) <;> rfl
@[simp] theorem State.endInstruction_i75 (i : Instr) (p : Bool) : (s.endInstruction i p).i75 = s.i75 := by
  unfold State.endInstruction; split <;> (try split) <;> rfl
@[simp] theorem State.endInstruction_sod (i : Instr) (p : Bool) : (s.endInstruction i p).sod = s.sod := by
  unfold State.endInstruction; split <;> (try split) <;> rfl
@[simp] theorem State.endInstruction_trapPending (i : Instr) (p : Bool) : (s.endInstruction i p).trapPending = s.trapPending := by
  unfold State.endInstruction; split <;> (try split) <;> rfl
@[simp] theorem State.endInstruction_mem (i : Instr) (p : Bool) : (s.endInstruction i p).mem = s.mem := by
  unfold State.endInstruction; split <;> (try split) <;> rfl
@[simp] theorem State.endInstruction_params (i : Instr) (p : Bool) : (s.endInstruction i p).params = s.params := by
  unfold State.endInstruction; split <;> (try split) <;> rfl
@[simp] theorem State.endInstruction_memMap (i : Instr) (p : Bool) : (s.endInstruction i p).memMap = s.memMap := by
  unfold State.endInstruction; split <;> (try split) <;> rfl
@[simp] theorem State.endInstruction_outputs (i : Instr) (p : Bool) : (s.endInstruction i p).outputs = s.outputs := by
  unfold State.endInstruction; split <;> (try split) <;> rfl
@[simp] theorem State.endInstruction_inputs (i : Instr) (p : Bool) : (s.endInstruction i p).inputs = s.inputs := by
  unfold State.endInstruction; split <;> (try split) <;> rfl
@[simp] theorem State.endInstruction_draws (i : Instr) (p : Bool) : (s.endInstruction i p).draws = s.draws := by
  unfold State.endInstruction; split <;> (try split) <;> rfl
@[simp] theorem State.endInstruction_trapRim (i : Instr) (p : Bool) : (s.endInstruction i p).trapRim = s.trapRim := by
  unfold State.endInstruction; split <;> (try split) <;> rfl

/-! ### Register accessors -/

@[simp] theorem State.setReg_reg_self (r : Reg) (v : Byte) : (s.setReg r v).reg r = v := by cases r <;> rfl

theorem State.setReg_reg_other (r q : Reg) (v : Byte) (h : q ≠ r) : (s.setReg r v).reg q = s.reg q := by
  cases r <;> cases q <;> first | rfl | exact absurd rfl h

end Sys2Proof.Machine
end

