-- ==== Sys2Proof/Laws/Ops.lean ====
section
/-! SUPPORT. What each shared operation can do, said once: the provers cite these and need not unfold the operation. -/

namespace Sys2Proof.Machine

/-! ### andThen -/

@[simp] theorem andThen_next (s : State) (f : State → Result) : andThen (.next s) f = f s := rfl

@[simp] theorem andThen_refused (e : Refusal) (f : State → Result) : andThen (.refused e) f = .refused e := rfl

/-- A sequence answers next only through a next of its first part. -/
theorem andThen_eq_next {r : Result} {f : State → Result} {t : State} (h : andThen r f = .next t) :
    ∃ s, r = .next s ∧ f s = .next t := by
  cases r with
  | next s => exact ⟨s, rfl, h⟩
  | fault e => cases h
  | refused e => cases h

/-- A sequence refuses either in its first part or in its second. -/
theorem andThen_eq_refused {r : Result} {f : State → Result} {e : Refusal} (h : andThen r f = .refused e) :
    r = .refused e ∨ ∃ s, r = .next s ∧ f s = .refused e := by
  cases r with
  | next s => exact .inr ⟨s, rfl, h⟩
  | fault e => cases h
  | refused e' => exact .inl h

/-! ### region -/

/-- The map is all that decides a region. -/
theorem State.region_congr {s t : State} (h : t.memMap = s.memMap) (a : Word) : t.region a = s.region a := by
  simp [State.region, h]

/-- Under the default map every address is RAM (R78). -/
theorem State.region_default {s : State} (h : s.memMap = []) (a : Word) : s.region a = .ram := by
  simp [State.region, h]

/-! ### load -/

theorem State.load_ram {s : State} {a : Word} (h : s.region a = .ram) : s.load a = (s.byteAt a, s) := by
  simp [State.load, h]

theorem State.load_rom {s : State} {a : Word} {w : Bool} (h : s.region a = .rom w) : s.load a = (s.byteAt a, s) := by
  simp [State.load, h]

/-- A load changes at most the draw counter. -/
theorem State.load_state (s : State) (a : Word) : (s.load a).2 = s ∨ (s.load a).2 = { s with draws := s.draws + 1 } := by
  unfold State.load
  split <;> simp

/-- All a load can do: answer a byte and move the counter of free values on. -/
theorem State.load_shape (s : State) (a : Word) : ∃ v d, s.load a = (v, { s with draws := d }) ∧ s.draws ≤ d := by
  unfold State.load
  split
  · exact ⟨_, s.draws, rfl, Nat.le_refl _⟩
  · exact ⟨_, s.draws, rfl, Nat.le_refl _⟩
  · exact ⟨_, s.draws + 1, rfl, Nat.le_succ _⟩
  · exact ⟨_, s.draws + 1, rfl, Nat.le_succ _⟩

/-- All a two-byte load can do. -/
theorem State.loadWord_shape (s : State) (a : Word) : ∃ w d, s.loadWord a = (w, { s with draws := d }) ∧ s.draws ≤ d := by
  obtain ⟨v1, d1, h1, l1⟩ := s.load_shape a
  obtain ⟨v2, d2, h2, l2⟩ := State.load_shape { s with draws := d1 } (a + 1)
  exact ⟨wordOf v2 v1, d2, by simp only [State.loadWord, h1, h2], Nat.le_trans l1 l2⟩

/-- All a pop can do: answer a word, move SP up by 2 and the counter of free values on. -/
theorem State.popWord_shape (s : State) : ∃ w d, s.popWord = (w, { s with sp := s.sp + 2, draws := d }) ∧ s.draws ≤ d := by
  obtain ⟨w, d, h, l⟩ := s.loadWord_shape s.sp
  exact ⟨w, d, by simp only [State.popWord, h], l⟩

/-- All a return can do. -/
theorem State.returnFromStack_shape (s : State) :
    ∃ w d, s.returnFromStack = { s with sp := s.sp + 2, pc := w, draws := d } ∧ s.draws ≤ d := by
  obtain ⟨w, d, h, l⟩ := s.popWord_shape
  exact ⟨w, d, by simp only [State.returnFromStack, h], l⟩

/-! ### Fields after load -/

@[simp] theorem State.load_regs (s : State) (a : Word) : (s.load a).2.regs = s.regs := by
  obtain ⟨v, d, h, -⟩ := State.load_shape s a; rw [h]
@[simp] theorem State.load_flags (s : State) (a : Word) : (s.load a).2.flags = s.flags := by
  obtain ⟨v, d, h, -⟩ := State.load_shape s a; rw [h]
@[simp] theorem State.load_sp (s : State) (a : Word) : (s.load a).2.sp = s.sp := by
  obtain ⟨v, d, h, -⟩ := State.load_shape s a; rw [h]
@[simp] theorem State.load_pc (s : State) (a : Word) : (s.load a).2.pc = s.pc := by
  obtain ⟨v, d, h, -⟩ := State.load_shape s a; rw [h]
@[simp] theorem State.load_inte (s : State) (a : Word) : (s.load a).2.inte = s.inte := by
  obtain ⟨v, d, h, -⟩ := State.load_shape s a; rw [h]
@[simp] theorem State.load_eiPending (s : State) (a : Word) : (s.load a).2.eiPending = s.eiPending := by
  obtain ⟨v, d, h, -⟩ := State.load_shape s a; rw [h]
@[simp] theorem State.load_halted (s : State) (a : Word) : (s.load a).2.halted = s.halted := by
  obtain ⟨v, d, h, -⟩ := State.load_shape s a; rw [h]
@[simp] theorem State.load_m75 (s : State) (a : Word) : (s.load a).2.m75 = s.m75 := by
  obtain ⟨v, d, h, -⟩ := State.load_shape s a; rw [h]
@[simp] theorem State.load_m65 (s : State) (a : Word) : (s.load a).2.m65 = s.m65 := by
  obtain ⟨v, d, h, -⟩ := State.load_shape s a; rw [h]
@[simp] theorem State.load_m55 (s : State) (a : Word) : (s.load a).2.m55 = s.m55 := by
  obtain ⟨v, d, h, -⟩ := State.load_shape s a; rw [h]
@[simp] theorem State.load_i75 (s : State) (a : Word) : (s.load a).2.i75 = s.i75 := by
  obtain ⟨v, d, h, -⟩ := State.load_shape s a; rw [h]
@[simp] theorem State.load_sod (s : State) (a : Word) : (s.load a).2.sod = s.sod := by
  obtain ⟨v, d, h, -⟩ := State.load_shape s a; rw [h]
@[simp] theorem State.load_trapPending (s : State) (a : Word) : (s.load a).2.trapPending = s.trapPending := by
  obtain ⟨v, d, h, -⟩ := State.load_shape s a; rw [h]
@[simp] theorem State.load_mem (s : State) (a : Word) : (s.load a).2.mem = s.mem := by
  obtain ⟨v, d, h, -⟩ := State.load_shape s a; rw [h]
@[simp] theorem State.load_params (s : State) (a : Word) : (s.load a).2.params = s.params := by
  obtain ⟨v, d, h, -⟩ := State.load_shape s a; rw [h]
@[simp] theorem State.load_memMap (s : State) (a : Word) : (s.load a).2.memMap = s.memMap := by
  obtain ⟨v, d, h, -⟩ := State.load_shape s a; rw [h]
@[simp] theorem State.load_outputs (s : State) (a : Word) : (s.load a).2.outputs = s.outputs := by
  obtain ⟨v, d, h, -⟩ := State.load_shape s a; rw [h]
@[simp] theorem State.load_inputs (s : State) (a : Word) : (s.load a).2.inputs = s.inputs := by
  obtain ⟨v, d, h, -⟩ := State.load_shape s a; rw [h]
@[simp] theorem State.load_trapRim (s : State) (a : Word) : (s.load a).2.trapRim = s.trapRim := by
  obtain ⟨v, d, h, -⟩ := State.load_shape s a; rw [h]

/-! ### Fields after loadWord -/

@[simp] theorem State.loadWord_regs (s : State) (a : Word) : (s.loadWord a).2.regs = s.regs := by
  obtain ⟨v, d, h, -⟩ := State.loadWord_shape s a; rw [h]
@[simp] theorem State.loadWord_flags (s : State) (a : Word) : (s.loadWord a).2.flags = s.flags := by
  obtain ⟨v, d, h, -⟩ := State.loadWord_shape s a; rw [h]
@[simp] theorem State.loadWord_sp (s : State) (a : Word) : (s.loadWord a).2.sp = s.sp := by
  obtain ⟨v, d, h, -⟩ := State.loadWord_shape s a; rw [h]
@[simp] theorem State.loadWord_pc (s : State) (a : Word) : (s.loadWord a).2.pc = s.pc := by
  obtain ⟨v, d, h, -⟩ := State.loadWord_shape s a; rw [h]
@[simp] theorem State.loadWord_inte (s : State) (a : Word) : (s.loadWord a).2.inte = s.inte := by
  obtain ⟨v, d, h, -⟩ := State.loadWord_shape s a; rw [h]
@[simp] theorem State.loadWord_eiPending (s : State) (a : Word) : (s.loadWord a).2.eiPending = s.eiPending := by
  obtain ⟨v, d, h, -⟩ := State.loadWord_shape s a; rw [h]
@[simp] theorem State.loadWord_halted (s : State) (a : Word) : (s.loadWord a).2.halted = s.halted := by
  obtain ⟨v, d, h, -⟩ := State.loadWord_shape s a; rw [h]
@[simp] theorem State.loadWord_m75 (s : State) (a : Word) : (s.loadWord a).2.m75 = s.m75 := by
  obtain ⟨v, d, h, -⟩ := State.loadWord_shape s a; rw [h]
@[simp] theorem State.loadWord_m65 (s : State) (a : Word) : (s.loadWord a).2.m65 = s.m65 := by
  obtain ⟨v, d, h, -⟩ := State.loadWord_shape s a; rw [h]
@[simp] theorem State.loadWord_m55 (s : State) (a : Word) : (s.loadWord a).2.m55 = s.m55 := by
  obtain ⟨v, d, h, -⟩ := State.loadWord_shape s a; rw [h]
@[simp] theorem State.loadWord_i75 (s : State) (a : Word) : (s.loadWord a).2.i75 = s.i75 := by
  obtain ⟨v, d, h, -⟩ := State.loadWord_shape s a; rw [h]
@[simp] theorem State.loadWord_sod (s : State) (a : Word) : (s.loadWord a).2.sod = s.sod := by
  obtain ⟨v, d, h, -⟩ := State.loadWord_shape s a; rw [h]
@[simp] theorem State.loadWord_trapPending (s : State) (a : Word) : (s.loadWord a).2.trapPending = s.trapPending := by
  obtain ⟨v, d, h, -⟩ := State.loadWord_shape s a; rw [h]
@[simp] theorem State.loadWord_mem (s : State) (a : Word) : (s.loadWord a).2.mem = s.mem := by
  obtain ⟨v, d, h, -⟩ := State.loadWord_shape s a; rw [h]
@[simp] theorem State.loadWord_params (s : State) (a : Word) : (s.loadWord a).2.params = s.params := by
  obtain ⟨v, d, h, -⟩ := State.loadWord_shape s a; rw [h]
@[simp] theorem State.loadWord_memMap (s : State) (a : Word) : (s.loadWord a).2.memMap = s.memMap := by
  obtain ⟨v, d, h, -⟩ := State.loadWord_shape s a; rw [h]
@[simp] theorem State.loadWord_outputs (s : State) (a : Word) : (s.loadWord a).2.outputs = s.outputs := by
  obtain ⟨v, d, h, -⟩ := State.loadWord_shape s a; rw [h]
@[simp] theorem State.loadWord_inputs (s : State) (a : Word) : (s.loadWord a).2.inputs = s.inputs := by
  obtain ⟨v, d, h, -⟩ := State.loadWord_shape s a; rw [h]
@[simp] theorem State.loadWord_trapRim (s : State) (a : Word) : (s.loadWord a).2.trapRim = s.trapRim := by
  obtain ⟨v, d, h, -⟩ := State.loadWord_shape s a; rw [h]

/-! ### Fields after popWord -/

@[simp] theorem State.popWord_regs (s : State) : (s.popWord).2.regs = s.regs := by
  obtain ⟨v, d, h, -⟩ := State.popWord_shape s; rw [h]
@[simp] theorem State.popWord_flags (s : State) : (s.popWord).2.flags = s.flags := by
  obtain ⟨v, d, h, -⟩ := State.popWord_shape s; rw [h]
@[simp] theorem State.popWord_sp (s : State) : (s.popWord).2.sp = s.sp + 2 := by
  obtain ⟨v, d, h, -⟩ := State.popWord_shape s; rw [h]
@[simp] theorem State.popWord_pc (s : State) : (s.popWord).2.pc = s.pc := by obtain ⟨v, d, h, -⟩ := State.popWord_shape s; rw [h]
@[simp] theorem State.popWord_inte (s : State) : (s.popWord).2.inte = s.inte := by
  obtain ⟨v, d, h, -⟩ := State.popWord_shape s; rw [h]
@[simp] theorem State.popWord_eiPending (s : State) : (s.popWord).2.eiPending = s.eiPending := by
  obtain ⟨v, d, h, -⟩ := State.popWord_shape s; rw [h]
@[simp] theorem State.popWord_halted (s : State) : (s.popWord).2.halted = s.halted := by
  obtain ⟨v, d, h, -⟩ := State.popWord_shape s; rw [h]
@[simp] theorem State.popWord_m75 (s : State) : (s.popWord).2.m75 = s.m75 := by obtain ⟨v, d, h, -⟩ := State.popWord_shape s; rw [h]
@[simp] theorem State.popWord_m65 (s : State) : (s.popWord).2.m65 = s.m65 := by obtain ⟨v, d, h, -⟩ := State.popWord_shape s; rw [h]
@[simp] theorem State.popWord_m55 (s : State) : (s.popWord).2.m55 = s.m55 := by obtain ⟨v, d, h, -⟩ := State.popWord_shape s; rw [h]
@[simp] theorem State.popWord_i75 (s : State) : (s.popWord).2.i75 = s.i75 := by obtain ⟨v, d, h, -⟩ := State.popWord_shape s; rw [h]
@[simp] theorem State.popWord_sod (s : State) : (s.popWord).2.sod = s.sod := by obtain ⟨v, d, h, -⟩ := State.popWord_shape s; rw [h]
@[simp] theorem State.popWord_trapPending (s : State) : (s.popWord).2.trapPending = s.trapPending := by
  obtain ⟨v, d, h, -⟩ := State.popWord_shape s; rw [h]
@[simp] theorem State.popWord_mem (s : State) : (s.popWord).2.mem = s.mem := by obtain ⟨v, d, h, -⟩ := State.popWord_shape s; rw [h]
@[simp] theorem State.popWord_params (s : State) : (s.popWord).2.params = s.params := by
  obtain ⟨v, d, h, -⟩ := State.popWord_shape s; rw [h]
@[simp] theorem State.popWord_memMap (s : State) : (s.popWord).2.memMap = s.memMap := by
  obtain ⟨v, d, h, -⟩ := State.popWord_shape s; rw [h]
@[simp] theorem State.popWord_outputs (s : State) : (s.popWord).2.outputs = s.outputs := by
  obtain ⟨v, d, h, -⟩ := State.popWord_shape s; rw [h]
@[simp] theorem State.popWord_inputs (s : State) : (s.popWord).2.inputs = s.inputs := by
  obtain ⟨v, d, h, -⟩ := State.popWord_shape s; rw [h]
@[simp] theorem State.popWord_trapRim (s : State) : (s.popWord).2.trapRim = s.trapRim := by
  obtain ⟨v, d, h, -⟩ := State.popWord_shape s; rw [h]

/-! ### Fields after returnFromStack -/

@[simp] theorem State.returnFromStack_regs (s : State) : s.returnFromStack.regs = s.regs := by
  obtain ⟨w, d, h, -⟩ := s.returnFromStack_shape; rw [h]
@[simp] theorem State.returnFromStack_flags (s : State) : s.returnFromStack.flags = s.flags := by
  obtain ⟨w, d, h, -⟩ := s.returnFromStack_shape; rw [h]
@[simp] theorem State.returnFromStack_sp (s : State) : s.returnFromStack.sp = s.sp + 2 := by
  obtain ⟨w, d, h, -⟩ := s.returnFromStack_shape; rw [h]
@[simp] theorem State.returnFromStack_inte (s : State) : s.returnFromStack.inte = s.inte := by
  obtain ⟨w, d, h, -⟩ := s.returnFromStack_shape; rw [h]
@[simp] theorem State.returnFromStack_eiPending (s : State) : s.returnFromStack.eiPending = s.eiPending := by
  obtain ⟨w, d, h, -⟩ := s.returnFromStack_shape; rw [h]
@[simp] theorem State.returnFromStack_halted (s : State) : s.returnFromStack.halted = s.halted := by
  obtain ⟨w, d, h, -⟩ := s.returnFromStack_shape; rw [h]
@[simp] theorem State.returnFromStack_m75 (s : State) : s.returnFromStack.m75 = s.m75 := by
  obtain ⟨w, d, h, -⟩ := s.returnFromStack_shape; rw [h]
@[simp] theorem State.returnFromStack_m65 (s : State) : s.returnFromStack.m65 = s.m65 := by
  obtain ⟨w, d, h, -⟩ := s.returnFromStack_shape; rw [h]
@[simp] theorem State.returnFromStack_m55 (s : State) : s.returnFromStack.m55 = s.m55 := by
  obtain ⟨w, d, h, -⟩ := s.returnFromStack_shape; rw [h]
@[simp] theorem State.returnFromStack_i75 (s : State) : s.returnFromStack.i75 = s.i75 := by
  obtain ⟨w, d, h, -⟩ := s.returnFromStack_shape; rw [h]
@[simp] theorem State.returnFromStack_sod (s : State) : s.returnFromStack.sod = s.sod := by
  obtain ⟨w, d, h, -⟩ := s.returnFromStack_shape; rw [h]
@[simp] theorem State.returnFromStack_trapPending (s : State) : s.returnFromStack.trapPending = s.trapPending := by
  obtain ⟨w, d, h, -⟩ := s.returnFromStack_shape; rw [h]
@[simp] theorem State.returnFromStack_mem (s : State) : s.returnFromStack.mem = s.mem := by
  obtain ⟨w, d, h, -⟩ := s.returnFromStack_shape; rw [h]
@[simp] theorem State.returnFromStack_params (s : State) : s.returnFromStack.params = s.params := by
  obtain ⟨w, d, h, -⟩ := s.returnFromStack_shape; rw [h]
@[simp] theorem State.returnFromStack_memMap (s : State) : s.returnFromStack.memMap = s.memMap := by
  obtain ⟨w, d, h, -⟩ := s.returnFromStack_shape; rw [h]
@[simp] theorem State.returnFromStack_outputs (s : State) : s.returnFromStack.outputs = s.outputs := by
  obtain ⟨w, d, h, -⟩ := s.returnFromStack_shape; rw [h]
@[simp] theorem State.returnFromStack_inputs (s : State) : s.returnFromStack.inputs = s.inputs := by
  obtain ⟨w, d, h, -⟩ := s.returnFromStack_shape; rw [h]
@[simp] theorem State.returnFromStack_trapRim (s : State) : s.returnFromStack.trapRim = s.trapRim := by
  obtain ⟨w, d, h, -⟩ := s.returnFromStack_shape; rw [h]

/-! ### Fields after portRead -/

@[simp] theorem State.portRead_regs (s : State) (p : Byte) : (s.portRead p).2.regs = s.regs := rfl
@[simp] theorem State.portRead_flags (s : State) (p : Byte) : (s.portRead p).2.flags = s.flags := rfl
@[simp] theorem State.portRead_sp (s : State) (p : Byte) : (s.portRead p).2.sp = s.sp := rfl
@[simp] theorem State.portRead_pc (s : State) (p : Byte) : (s.portRead p).2.pc = s.pc := rfl
@[simp] theorem State.portRead_inte (s : State) (p : Byte) : (s.portRead p).2.inte = s.inte := rfl
@[simp] theorem State.portRead_eiPending (s : State) (p : Byte) : (s.portRead p).2.eiPending = s.eiPending := rfl
@[simp] theorem State.portRead_halted (s : State) (p : Byte) : (s.portRead p).2.halted = s.halted := rfl
@[simp] theorem State.portRead_m75 (s : State) (p : Byte) : (s.portRead p).2.m75 = s.m75 := rfl
@[simp] theorem State.portRead_m65 (s : State) (p : Byte) : (s.portRead p).2.m65 = s.m65 := rfl
@[simp] theorem State.portRead_m55 (s : State) (p : Byte) : (s.portRead p).2.m55 = s.m55 := rfl
@[simp] theorem State.portRead_i75 (s : State) (p : Byte) : (s.portRead p).2.i75 = s.i75 := rfl
@[simp] theorem State.portRead_sod (s : State) (p : Byte) : (s.portRead p).2.sod = s.sod := rfl
@[simp] theorem State.portRead_trapPending (s : State) (p : Byte) : (s.portRead p).2.trapPending = s.trapPending := rfl
@[simp] theorem State.portRead_mem (s : State) (p : Byte) : (s.portRead p).2.mem = s.mem := rfl
@[simp] theorem State.portRead_params (s : State) (p : Byte) : (s.portRead p).2.params = s.params := rfl
@[simp] theorem State.portRead_memMap (s : State) (p : Byte) : (s.portRead p).2.memMap = s.memMap := rfl
@[simp] theorem State.portRead_outputs (s : State) (p : Byte) : (s.portRead p).2.outputs = s.outputs := rfl
@[simp] theorem State.portRead_inputs (s : State) (p : Byte) : (s.portRead p).2.inputs = s.inputs := rfl
@[simp] theorem State.portRead_trapRim (s : State) (p : Byte) : (s.portRead p).2.trapRim = s.trapRim := rfl

theorem State.loadWord_ram {s : State} {a : Word} (h1 : s.region a = .ram) (h2 : s.region (a + 1) = .ram) :
    s.loadWord a = (wordOf (s.byteAt (a + 1)) (s.byteAt a), s) := by
  simp only [State.loadWord, State.load_ram h1, State.load_ram h2]

theorem State.popWord_ram {s : State} (h1 : s.region s.sp = .ram) (h2 : s.region (s.sp + 1) = .ram) :
    s.popWord = (wordOf (s.byteAt (s.sp + 1)) (s.byteAt s.sp), { s with sp := s.sp + 2 }) := by
  simp only [State.popWord, State.loadWord_ram h1 h2]

/-! ### store -/

theorem State.store_ram {s : State} {a : Word} (v : Byte) (h : s.region a = .ram) :
    s.store a v = .next { s with mem := s.mem.write a.toNat v } := by
  simp [State.store, h]

/-- All a store can do when it answers next: write RAM, do nothing (ROM, absent), or send an event (device). -/
theorem State.store_next {s t : State} {a : Word} {v : Byte} (h : s.store a v = .next t) :
    (s.region a = .ram ∧ t = { s with mem := s.mem.write a.toNat v }) ∨
      ((s.region a = .rom true ∨ s.region a = .absent) ∧ t = s) ∨
      (s.region a = .device ∧ t = { s with outputs := s.outputs ++ [.device a v] }) := by
  unfold State.store at h
  split at h <;> simp_all

/-- A store that answers next changes at most memory, whose form it keeps, and the output trace, to which it adds. -/
theorem State.store_shape {s t : State} {a : Word} {v : Byte} (h : s.store a v = .next t) :
    ∃ m o, t = { s with mem := m, outputs := o } ∧ s.outputs <+: o ∧ (s.mem.wf = true → m.wf = true) := by
  rcases State.store_next h with ⟨-, rfl⟩ | ⟨-, rfl⟩ | ⟨-, rfl⟩
  · exact ⟨_, _, rfl, List.prefix_refl _, Memory.wf_write _ _ _ a.isLt⟩
  · exact ⟨_, _, rfl, List.prefix_refl _, id⟩
  · exact ⟨_, _, rfl, List.prefix_append _ _, id⟩

/-- A store answers next wherever it is not refused. -/
theorem State.store_completes {s : State} {a : Word} (v : Byte) (h : s.region a ≠ .rom false) :
    ∃ m o, s.store a v = .next { s with mem := m, outputs := o } := by
  unfold State.store
  split
  · exact ⟨_, _, rfl⟩
  · exact ⟨_, _, rfl⟩
  · rename_i h'
    exact absurd h' h
  · exact ⟨_, _, rfl⟩
  · exact ⟨_, _, rfl⟩

/-- A store refuses only a ROM whose writes the platform does not define. -/
theorem State.store_refused {s : State} {a : Word} {v : Byte} {e : Refusal} (h : s.store a v = .refused e) :
    s.region a = .rom false ∧ e = .romWrite a := by
  unfold State.store at h
  split at h <;> simp_all

/-- Two bytes pushed on a RAM stack (R64). -/
theorem State.pushBytes_ram {s : State} (hi lo : Byte) (h1 : s.region (s.sp - 1) = .ram) (h2 : s.region (s.sp - 2) = .ram) :
    s.pushBytes hi lo =
      .next { s with mem := (s.mem.write (s.sp - 1).toNat hi).write (s.sp - 2).toNat lo, sp := s.sp - 2 } := by
  have h3 : ({ s with mem := s.mem.write (s.sp - 1).toNat hi } : State).region (s.sp - 2) = .ram := h2
  simp only [State.pushBytes, State.store_ram hi h1, andThen_next, State.store_ram lo h3]

/-- A push that answers next changes at most memory, the output trace and SP. -/
theorem State.pushBytes_next {s t : State} {hi lo : Byte} (h : s.pushBytes hi lo = .next t) :
    ∃ s1 s2, s.store (s.sp - 1) hi = .next s1 ∧ s1.store (s.sp - 2) lo = .next s2 ∧ t = { s2 with sp := s.sp - 2 } := by
  obtain ⟨s1, h1, h⟩ := andThen_eq_next h
  obtain ⟨s2, h2, h⟩ := andThen_eq_next h
  cases h
  exact ⟨s1, s2, h1, h2, rfl⟩

/-- A push that answers next moves SP down by 2 and is otherwise two stores. -/
theorem State.pushBytes_shape {s t : State} {hi lo : Byte} (h : s.pushBytes hi lo = .next t) :
    ∃ m o, t = { s with mem := m, outputs := o, sp := s.sp - 2 } ∧ s.outputs <+: o ∧ (s.mem.wf = true → m.wf = true) := by
  obtain ⟨s1, s2, h1, h2, rfl⟩ := State.pushBytes_next h
  obtain ⟨m1, o1, rfl, p1, w1⟩ := State.store_shape h1
  obtain ⟨m2, o2, rfl, p2, w2⟩ := State.store_shape h2
  exact ⟨m2, o2, rfl, p1.trans p2, fun w => w2 (w1 w)⟩

/-- A push answers next wherever neither of its stores is refused. -/
theorem State.pushBytes_completes {s : State} (hi lo : Byte) (h1 : s.region (s.sp - 1) ≠ .rom false)
    (h2 : s.region (s.sp - 2) ≠ .rom false) : ∃ m o, s.pushBytes hi lo = .next { s with mem := m, outputs := o, sp := s.sp - 2 } := by
  obtain ⟨m1, o1, e1⟩ := State.store_completes hi h1
  have h3 : ({ s with mem := m1, outputs := o1 } : State).region (s.sp - 2) ≠ .rom false := h2
  obtain ⟨m2, o2, e2⟩ := State.store_completes lo h3
  exact ⟨m2, o2, by simp only [State.pushBytes, e1, andThen_next, e2]⟩

/-- A refused push names one of its two addresses. -/
theorem State.pushBytes_refused {s : State} {hi lo : Byte} {e : Refusal} (h : s.pushBytes hi lo = .refused e) :
    ∃ a, s.region a = .rom false ∧ e = .romWrite a := by
  rcases andThen_eq_refused h with h | ⟨s1, h1, h⟩
  · exact ⟨_, State.store_refused h⟩
  · obtain ⟨m, o, rfl, -, -⟩ := State.store_shape h1
    rcases andThen_eq_refused h with h | ⟨s2, -, h⟩
    · exact ⟨s.sp - 2, State.store_refused (s := { s with mem := m, outputs := o }) h⟩
    · cases h

/-- A call that answers next is a push and a jump. -/
theorem State.callTo_shape {s t : State} {len : Nat} {target : Word} (h : s.callTo len target = .next t) :
    ∃ m o, t = { s with mem := m, outputs := o, sp := s.sp - 2, pc := target } ∧ s.outputs <+: o ∧ (s.mem.wf = true → m.wf = true) := by
  obtain ⟨s1, h1, h⟩ := andThen_eq_next h
  obtain ⟨m, o, rfl, p, w⟩ := State.pushBytes_shape h1
  cases h
  exact ⟨m, o, rfl, p, w⟩

/-! ### A store, a push or a condition at the head of a meaning -/

/-- A meaning that begins with a store goes on in a state in which only memory and the output trace may differ. -/
theorem State.store_andThen_next {s t : State} {a : Word} {v : Byte} {f : State → Result} (h : andThen (s.store a v) f = .next t) :
    ∃ m o, f { s with mem := m, outputs := o } = .next t ∧ s.outputs <+: o ∧ (s.mem.wf = true → m.wf = true) := by
  obtain ⟨s1, h1, h⟩ := andThen_eq_next h
  obtain ⟨m, o, rfl, p, w⟩ := State.store_shape h1
  exact ⟨m, o, h, p, w⟩

/-- A meaning that begins with a push goes on in a state in which only memory, the output trace and SP differ. -/
theorem State.pushBytes_andThen_next {s t : State} {hi lo : Byte} {f : State → Result}
    (h : andThen (s.pushBytes hi lo) f = .next t) :
    ∃ m o, f { s with mem := m, outputs := o, sp := s.sp - 2 } = .next t ∧ s.outputs <+: o ∧ (s.mem.wf = true → m.wf = true) := by
  obtain ⟨s1, h1, h⟩ := andThen_eq_next h
  obtain ⟨m, o, rfl, p, w⟩ := State.pushBytes_shape h1
  exact ⟨m, o, h, p, w⟩

theorem State.pushWord_andThen_next {s t : State} {w : Word} {f : State → Result} (h : andThen (s.pushWord w) f = .next t) :
    ∃ m o, f { s with mem := m, outputs := o, sp := s.sp - 2 } = .next t ∧ s.outputs <+: o ∧ (s.mem.wf = true → m.wf = true) :=
  State.pushBytes_andThen_next h

/-- A conditional jump always answers next. -/
theorem State.jumpIf_next {s t : State} {cond : Cond} {addr : Word} (h : s.jumpIf cond addr = .next t) :
    (s.flags.holds cond = true ∧ t = { s with pc := addr }) ∨ (s.flags.holds cond = false ∧ t = s.advance 3) := by
  unfold State.jumpIf at h
  split at h
  · exact .inl ⟨‹_›, (Host.Outcome.next.inj h).symm⟩
  · rename_i hc
    exact .inr ⟨Bool.eq_false_iff.2 hc, (Host.Outcome.next.inj h).symm⟩

/-- A conditional call that answers next is a call or the next instruction. -/
theorem State.callIf_next {s t : State} {cond : Cond} {addr : Word} (h : s.callIf cond addr = .next t) :
    (s.flags.holds cond = true ∧ s.callTo 3 addr = .next t) ∨ (s.flags.holds cond = false ∧ t = s.advance 3) := by
  unfold State.callIf at h
  split at h
  · exact .inl ⟨‹_›, h⟩
  · rename_i hc
    exact .inr ⟨Bool.eq_false_iff.2 hc, (Host.Outcome.next.inj h).symm⟩

/-- A conditional return always answers next. -/
theorem State.returnIf_next {s t : State} {cond : Cond} (h : s.returnIf cond = .next t) :
    (s.flags.holds cond = true ∧ t = s.returnFromStack) ∨ (s.flags.holds cond = false ∧ t = s.advance 1) := by
  unfold State.returnIf at h
  split at h
  · exact .inl ⟨‹_›, (Host.Outcome.next.inj h).symm⟩
  · rename_i hc
    exact .inr ⟨Bool.eq_false_iff.2 hc, (Host.Outcome.next.inj h).symm⟩

/-! ### Interrupt entry and the boundary -/

/-- An entry that answers next is the acknowledgement, a push of PC and a jump. -/
theorem State.interruptEntry_shape {s t : State} {source : IntSource} {supplied : SuppliedInstr}
    (h : s.interruptEntry source supplied = .next t) :
    ∃ m o,
      t = { s.acknowledge source with
            mem := m
            outputs := o
            sp := s.sp - 2
            pc := entryAddress s.params.interrupts source supplied } ∧
      s.outputs <+: o ∧ (s.mem.wf = true → m.wf = true) := by
  obtain ⟨s1, h1, h⟩ := andThen_eq_next h
  obtain ⟨m, o, rfl, p, w⟩ := State.pushBytes_shape h1
  cases h
  exact ⟨m, o, rfl, p, w⟩

/-- An entry refuses only a stack in ROM. -/
theorem State.interruptEntry_refused {s : State} {source : IntSource} {supplied : SuppliedInstr} {e : Refusal}
    (h : s.interruptEntry source supplied = .refused e) : ∃ a, s.region a = .rom false ∧ e = .romWrite a := by
  rcases andThen_eq_refused h with h | ⟨s1, -, h⟩
  · exact State.pushBytes_refused (s := s.acknowledge source) h
  · cases h

/-- The request taken is the first one of the platform's list that is requested. -/
theorem State.enabledRequest_eq_some {s : State} {inp : BoundaryInput} {source : IntSource} :
    s.enabledRequest inp = some source ↔
      s.requested inp source = true ∧
        ∃ before after, s.params.interrupts.priority = before ++ source :: after ∧ ∀ x ∈ before, (!s.requested inp x) = true :=
  List.find?_eq_some_iff_append

/-- No request is taken exactly where none of the platform's list is requested. -/
theorem State.enabledRequest_eq_none {s : State} {inp : BoundaryInput} :
    s.enabledRequest inp = none ↔ ∀ x ∈ s.params.interrupts.priority, ¬s.requested inp x = true :=
  List.find?_eq_none

/-- A boundary that answers next either goes on with the lines sampled or enters the enabled request. -/
theorem State.atBoundary_next {s t : State} {recognise : Bool} (h : s.atBoundary recognise = .next t) :
    t = s.sampleLines s.boundaryInput ∨
      ∃ source, recognise = true ∧ (s.sampleLines s.boundaryInput).enabledRequest s.boundaryInput = some source ∧
        (s.sampleLines s.boundaryInput).interruptEntry source s.boundaryInput.supplied = .next t := by
  cases recognise with
  | false => exact .inl (Host.Outcome.next.inj h).symm
  | true =>
    cases hs : (s.sampleLines s.boundaryInput).enabledRequest s.boundaryInput with
    | none =>
      simp only [State.atBoundary, hs, if_true] at h
      exact .inl (Host.Outcome.next.inj h).symm
    | some source =>
      simp only [State.atBoundary, hs, if_true] at h
      exact .inr ⟨source, rfl, rfl, h⟩

/-- A boundary refuses only a stack in ROM. -/
theorem State.atBoundary_refused {s : State} {recognise : Bool} {e : Refusal} (h : s.atBoundary recognise = .refused e) :
    ∃ a, s.region a = .rom false ∧ e = .romWrite a := by
  cases recognise with
  | false => cases h
  | true =>
    cases hs : (s.sampleLines s.boundaryInput).enabledRequest s.boundaryInput with
    | none =>
      simp only [State.atBoundary, hs, if_true] at h
      cases h
    | some source =>
      simp only [State.atBoundary, hs, if_true] at h
      exact State.interruptEntry_refused (s := s.sampleLines s.boundaryInput) h

/-! ### Fetch and step -/

/-- A decoded instruction is taken as it is, whatever the platform says of illegal bytes. -/
@[simp] theorem resolveIllegal_instr (policy : IllegalOpcode) (i : Instr) (rest : List Byte) :
    resolveIllegal policy (.instr i rest) = .instr i rest := by cases policy <;> rfl

/-- Under the default of ILLEGAL_OPCODE a refused byte stays refused (D3). -/
@[simp] theorem resolveIllegal_refuse (d : Decoded) : resolveIllegal .refuse d = d := rfl

@[simp] theorem resolveIllegal_nop_rejected (why : DecodeError) : resolveIllegal .nop (.rejected why) = .instr .nop [] := rfl

/-- All a fetch can do: answer some bytes, whose decoding is taken as the platform says, and move the counter of free values on. -/
theorem State.fetch_shape (s : State) :
    ∃ d, s.fetch = (resolveIllegal s.params.illegalOpcode (decode s.fetchBytes.1), { s with draws := d }) ∧ s.draws ≤ d := by
  have key : ∃ d, s.fetchBytes.2 = { s with draws := d } ∧ s.draws ≤ d := by
    obtain ⟨v1, d1, h1, l1⟩ := s.load_shape s.pc
    obtain ⟨v2, d2, h2, l2⟩ := State.load_shape { s with draws := d1 } (s.pc + 1)
    obtain ⟨v3, d3, h3, l3⟩ := State.load_shape { s with draws := d2 } (s.pc + 2)
    simp only [State.fetchBytes, h1, h2, h3]
    split
    · exact ⟨d2, rfl, Nat.le_trans l1 l2⟩
    · split
      · exact ⟨d2, rfl, Nat.le_trans l1 l2⟩
      · exact ⟨d3, rfl, Nat.le_trans l1 (Nat.le_trans l2 l3)⟩
    · exact ⟨d1, rfl, l1⟩
  obtain ⟨d, h, l⟩ := key
  exact ⟨d, by simp only [State.fetch, h], l⟩

/-- All a step can do when it answers next: a reset, a boundary while halted, or an instruction and its boundary. -/
theorem step_next {s t : State} (h : step s = .next t) :
    (∃ n, s.boundaryInput.reset = some n ∧ s.resetDuring n = .next t) ∨
      (s.boundaryInput.reset = none ∧ s.halted = true ∧ s.atBoundary true = .next t) ∨
      (s.boundaryInput.reset = none ∧ s.halted = false ∧
        ∃ i rest d u, s.fetch = (.instr i rest, { s with draws := d }) ∧ s.draws ≤ d ∧
          exec i { s with draws := d } = .next u ∧
          (u.endInstruction i s.eiPending).atBoundary (recognisesAfter i) = .next t) := by
  unfold step at h
  split at h
  · rename_i n hr
    exact .inl ⟨n, hr, h⟩
  · rename_i hr
    split at h
    · rename_i hh
      exact .inr (.inl ⟨hr, hh, h⟩)
    · rename_i hh
      refine .inr (.inr ⟨hr, by simpa using hh, ?_⟩)
      obtain ⟨d, hf, l⟩ := s.fetch_shape
      unfold State.runInstruction at h
      rw [hf] at h
      split at h
      · rename_i i rest s1 he
        cases he' : resolveIllegal s.params.illegalOpcode (decode s.fetchBytes.1) with
        | rejected why => rw [he'] at he; cases he
        | instr j r =>
          rw [he'] at he hf
          cases he
          obtain ⟨u, hu, h⟩ := andThen_eq_next h
          exact ⟨i, rest, d, u, hf, l, hu, h⟩
      · cases h

/-! ### The canonical form through the operations -/

theorem State.store_keeps_wf {s t : State} {a : Word} {v : Byte} (h : s.store a v = .next t) (hw : s.mem.wf = true) :
    t.mem.wf = true := by
  rcases State.store_next h with ⟨-, rfl⟩ | ⟨-, rfl⟩ | ⟨-, rfl⟩
  · exact Memory.wf_write _ _ _ a.isLt hw
  · exact hw
  · exact hw

theorem State.load_keeps_wf {s : State} (a : Word) (hw : s.mem.wf = true) : (s.load a).2.mem.wf = true := by
  rcases State.load_state s a with h | h <;> rw [h] <;> exact hw

theorem State.pushBytes_keeps_wf {s t : State} {hi lo : Byte} (h : s.pushBytes hi lo = .next t) (hw : s.mem.wf = true) :
    t.mem.wf = true := by
  obtain ⟨s1, s2, h1, h2, rfl⟩ := State.pushBytes_next h
  exact (State.store_keeps_wf h2 (State.store_keeps_wf h1 hw) : s2.mem.wf = true)

theorem State.withCode_keeps_wf {s : State} (b1 b2 b3 : Byte) (hw : s.mem.wf = true) : (s.withCode b1 b2 b3).mem.wf = true :=
  Memory.wf_write _ _ _ (s.pc + 2).isLt (Memory.wf_write _ _ _ (s.pc + 1).isLt (Memory.wf_write _ _ _ s.pc.isLt hw))

end Sys2Proof.Machine
end

