-- ==== Sys2Proof/Laws/PerInstr.lean ====
section
/-! SUPPORT. Per-instruction families: `EncodeLength` says that the first byte of an instruction's encoding announces
the encoding's length (spec/30_encoding.md R90). -/

namespace Sys2Proof.Laws

/-- R90: byte 1 alone determines the length. -/
def EncodeLength.Statement (i : Instr) : Prop :=
  i.wellFormed = true → ∃ b rest, encode i = b :: rest ∧ instrLength b = (encode i).length

theorem EncodeLength.mviR (r : Reg) (data : Byte) : EncodeLength.Statement (.mviR r data) := fun _ => ⟨_, _, rfl, by cases r <;> rfl⟩
theorem EncodeLength.movRR (r1 r2 : Reg) : EncodeLength.Statement (.movRR r1 r2) := fun _ => ⟨_, _, rfl, by cases r1 <;> cases r2 <;> rfl⟩
theorem EncodeLength.movRM (r : Reg) : EncodeLength.Statement (.movRM r) := fun _ => ⟨_, _, rfl, by cases r <;> rfl⟩
theorem EncodeLength.movMR (r : Reg) : EncodeLength.Statement (.movMR r) := fun _ => ⟨_, _, rfl, by cases r <;> rfl⟩
theorem EncodeLength.mviM (data : Byte) : EncodeLength.Statement (.mviM data) := fun _ => ⟨_, _, rfl, rfl⟩
theorem EncodeLength.lxi (rp : Pair) (data : Word) : EncodeLength.Statement (.lxi rp data) := fun _ => ⟨_, _, rfl, by cases rp <;> rfl⟩
theorem EncodeLength.lda (addr : Word) : EncodeLength.Statement (.lda addr) := fun _ => ⟨_, _, rfl, rfl⟩
theorem EncodeLength.sta (addr : Word) : EncodeLength.Statement (.sta addr) := fun _ => ⟨_, _, rfl, rfl⟩
theorem EncodeLength.lhld (addr : Word) : EncodeLength.Statement (.lhld addr) := fun _ => ⟨_, _, rfl, rfl⟩
theorem EncodeLength.shld (addr : Word) : EncodeLength.Statement (.shld addr) := fun _ => ⟨_, _, rfl, rfl⟩
theorem EncodeLength.ldax (rp : Pair) : EncodeLength.Statement (.ldax rp) := by
  intro h
  cases rp <;> first | exact ⟨_, _, rfl, rfl⟩ | cases h
theorem EncodeLength.stax (rp : Pair) : EncodeLength.Statement (.stax rp) := by
  intro h
  cases rp <;> first | exact ⟨_, _, rfl, rfl⟩ | cases h
theorem EncodeLength.xchg : EncodeLength.Statement (.xchg) := fun _ => ⟨_, _, rfl, rfl⟩
theorem EncodeLength.addR (r : Reg) : EncodeLength.Statement (.addR r) := fun _ => ⟨_, _, rfl, by cases r <;> rfl⟩
theorem EncodeLength.addM : EncodeLength.Statement (.addM) := fun _ => ⟨_, _, rfl, rfl⟩
theorem EncodeLength.adi (data : Byte) : EncodeLength.Statement (.adi data) := fun _ => ⟨_, _, rfl, rfl⟩
theorem EncodeLength.adcR (r : Reg) : EncodeLength.Statement (.adcR r) := fun _ => ⟨_, _, rfl, by cases r <;> rfl⟩
theorem EncodeLength.adcM : EncodeLength.Statement (.adcM) := fun _ => ⟨_, _, rfl, rfl⟩
theorem EncodeLength.aci (data : Byte) : EncodeLength.Statement (.aci data) := fun _ => ⟨_, _, rfl, rfl⟩
theorem EncodeLength.subR (r : Reg) : EncodeLength.Statement (.subR r) := fun _ => ⟨_, _, rfl, by cases r <;> rfl⟩
theorem EncodeLength.subM : EncodeLength.Statement (.subM) := fun _ => ⟨_, _, rfl, rfl⟩
theorem EncodeLength.sui (data : Byte) : EncodeLength.Statement (.sui data) := fun _ => ⟨_, _, rfl, rfl⟩
theorem EncodeLength.sbbR (r : Reg) : EncodeLength.Statement (.sbbR r) := fun _ => ⟨_, _, rfl, by cases r <;> rfl⟩
theorem EncodeLength.sbbM : EncodeLength.Statement (.sbbM) := fun _ => ⟨_, _, rfl, rfl⟩
theorem EncodeLength.sbi (data : Byte) : EncodeLength.Statement (.sbi data) := fun _ => ⟨_, _, rfl, rfl⟩
theorem EncodeLength.inrR (r : Reg) : EncodeLength.Statement (.inrR r) := fun _ => ⟨_, _, rfl, by cases r <;> rfl⟩
theorem EncodeLength.inrM : EncodeLength.Statement (.inrM) := fun _ => ⟨_, _, rfl, rfl⟩
theorem EncodeLength.dcrR (r : Reg) : EncodeLength.Statement (.dcrR r) := fun _ => ⟨_, _, rfl, by cases r <;> rfl⟩
theorem EncodeLength.dcrM : EncodeLength.Statement (.dcrM) := fun _ => ⟨_, _, rfl, rfl⟩
theorem EncodeLength.inx (rp : Pair) : EncodeLength.Statement (.inx rp) := fun _ => ⟨_, _, rfl, by cases rp <;> rfl⟩
theorem EncodeLength.dcx (rp : Pair) : EncodeLength.Statement (.dcx rp) := fun _ => ⟨_, _, rfl, by cases rp <;> rfl⟩
theorem EncodeLength.dad (rp : Pair) : EncodeLength.Statement (.dad rp) := fun _ => ⟨_, _, rfl, by cases rp <;> rfl⟩
theorem EncodeLength.daa : EncodeLength.Statement (.daa) := fun _ => ⟨_, _, rfl, rfl⟩
theorem EncodeLength.anaR (r : Reg) : EncodeLength.Statement (.anaR r) := fun _ => ⟨_, _, rfl, by cases r <;> rfl⟩
theorem EncodeLength.anaM : EncodeLength.Statement (.anaM) := fun _ => ⟨_, _, rfl, rfl⟩
theorem EncodeLength.ani (data : Byte) : EncodeLength.Statement (.ani data) := fun _ => ⟨_, _, rfl, rfl⟩
theorem EncodeLength.xraR (r : Reg) : EncodeLength.Statement (.xraR r) := fun _ => ⟨_, _, rfl, by cases r <;> rfl⟩
theorem EncodeLength.xraM : EncodeLength.Statement (.xraM) := fun _ => ⟨_, _, rfl, rfl⟩
theorem EncodeLength.xri (data : Byte) : EncodeLength.Statement (.xri data) := fun _ => ⟨_, _, rfl, rfl⟩
theorem EncodeLength.oraR (r : Reg) : EncodeLength.Statement (.oraR r) := fun _ => ⟨_, _, rfl, by cases r <;> rfl⟩
theorem EncodeLength.oraM : EncodeLength.Statement (.oraM) := fun _ => ⟨_, _, rfl, rfl⟩
theorem EncodeLength.ori (data : Byte) : EncodeLength.Statement (.ori data) := fun _ => ⟨_, _, rfl, rfl⟩
theorem EncodeLength.cmpR (r : Reg) : EncodeLength.Statement (.cmpR r) := fun _ => ⟨_, _, rfl, by cases r <;> rfl⟩
theorem EncodeLength.cmpM : EncodeLength.Statement (.cmpM) := fun _ => ⟨_, _, rfl, rfl⟩
theorem EncodeLength.cpi (data : Byte) : EncodeLength.Statement (.cpi data) := fun _ => ⟨_, _, rfl, rfl⟩
theorem EncodeLength.rlc : EncodeLength.Statement (.rlc) := fun _ => ⟨_, _, rfl, rfl⟩
theorem EncodeLength.rrc : EncodeLength.Statement (.rrc) := fun _ => ⟨_, _, rfl, rfl⟩
theorem EncodeLength.ral : EncodeLength.Statement (.ral) := fun _ => ⟨_, _, rfl, rfl⟩
theorem EncodeLength.rar : EncodeLength.Statement (.rar) := fun _ => ⟨_, _, rfl, rfl⟩
theorem EncodeLength.cma : EncodeLength.Statement (.cma) := fun _ => ⟨_, _, rfl, rfl⟩
theorem EncodeLength.cmc : EncodeLength.Statement (.cmc) := fun _ => ⟨_, _, rfl, rfl⟩
theorem EncodeLength.stc : EncodeLength.Statement (.stc) := fun _ => ⟨_, _, rfl, rfl⟩
theorem EncodeLength.jmp (addr : Word) : EncodeLength.Statement (.jmp addr) := fun _ => ⟨_, _, rfl, rfl⟩
theorem EncodeLength.jnz (addr : Word) : EncodeLength.Statement (.jnz addr) := fun _ => ⟨_, _, rfl, rfl⟩
theorem EncodeLength.jz (addr : Word) : EncodeLength.Statement (.jz addr) := fun _ => ⟨_, _, rfl, rfl⟩
theorem EncodeLength.jnc (addr : Word) : EncodeLength.Statement (.jnc addr) := fun _ => ⟨_, _, rfl, rfl⟩
theorem EncodeLength.jc (addr : Word) : EncodeLength.Statement (.jc addr) := fun _ => ⟨_, _, rfl, rfl⟩
theorem EncodeLength.jpo (addr : Word) : EncodeLength.Statement (.jpo addr) := fun _ => ⟨_, _, rfl, rfl⟩
theorem EncodeLength.jpe (addr : Word) : EncodeLength.Statement (.jpe addr) := fun _ => ⟨_, _, rfl, rfl⟩
theorem EncodeLength.jp (addr : Word) : EncodeLength.Statement (.jp addr) := fun _ => ⟨_, _, rfl, rfl⟩
theorem EncodeLength.jm (addr : Word) : EncodeLength.Statement (.jm addr) := fun _ => ⟨_, _, rfl, rfl⟩
theorem EncodeLength.call (addr : Word) : EncodeLength.Statement (.call addr) := fun _ => ⟨_, _, rfl, rfl⟩
theorem EncodeLength.cnz (addr : Word) : EncodeLength.Statement (.cnz addr) := fun _ => ⟨_, _, rfl, rfl⟩
theorem EncodeLength.cz (addr : Word) : EncodeLength.Statement (.cz addr) := fun _ => ⟨_, _, rfl, rfl⟩
theorem EncodeLength.cnc (addr : Word) : EncodeLength.Statement (.cnc addr) := fun _ => ⟨_, _, rfl, rfl⟩
theorem EncodeLength.cc (addr : Word) : EncodeLength.Statement (.cc addr) := fun _ => ⟨_, _, rfl, rfl⟩
theorem EncodeLength.cpo (addr : Word) : EncodeLength.Statement (.cpo addr) := fun _ => ⟨_, _, rfl, rfl⟩
theorem EncodeLength.cpe (addr : Word) : EncodeLength.Statement (.cpe addr) := fun _ => ⟨_, _, rfl, rfl⟩
theorem EncodeLength.cp (addr : Word) : EncodeLength.Statement (.cp addr) := fun _ => ⟨_, _, rfl, rfl⟩
theorem EncodeLength.cm (addr : Word) : EncodeLength.Statement (.cm addr) := fun _ => ⟨_, _, rfl, rfl⟩
theorem EncodeLength.ret : EncodeLength.Statement (.ret) := fun _ => ⟨_, _, rfl, rfl⟩
theorem EncodeLength.rnz : EncodeLength.Statement (.rnz) := fun _ => ⟨_, _, rfl, rfl⟩
theorem EncodeLength.rz : EncodeLength.Statement (.rz) := fun _ => ⟨_, _, rfl, rfl⟩
theorem EncodeLength.rnc : EncodeLength.Statement (.rnc) := fun _ => ⟨_, _, rfl, rfl⟩
theorem EncodeLength.rc : EncodeLength.Statement (.rc) := fun _ => ⟨_, _, rfl, rfl⟩
theorem EncodeLength.rpo : EncodeLength.Statement (.rpo) := fun _ => ⟨_, _, rfl, rfl⟩
theorem EncodeLength.rpe : EncodeLength.Statement (.rpe) := fun _ => ⟨_, _, rfl, rfl⟩
theorem EncodeLength.rp : EncodeLength.Statement (.rp) := fun _ => ⟨_, _, rfl, rfl⟩
theorem EncodeLength.rm : EncodeLength.Statement (.rm) := fun _ => ⟨_, _, rfl, rfl⟩
theorem EncodeLength.rst (n : BitVec 3) : EncodeLength.Statement (.rst n) := fun _ => ⟨_, [], rfl, by revert n; decide⟩
theorem EncodeLength.pchl : EncodeLength.Statement (.pchl) := fun _ => ⟨_, _, rfl, rfl⟩
theorem EncodeLength.push (rp : Pair) : EncodeLength.Statement (.push rp) := by
  intro h
  cases rp <;> exact ⟨_, _, rfl, rfl⟩
theorem EncodeLength.pushPsw : EncodeLength.Statement (.pushPsw) := fun _ => ⟨_, _, rfl, rfl⟩
theorem EncodeLength.pop (rp : Pair) : EncodeLength.Statement (.pop rp) := by
  intro h
  cases rp <;> exact ⟨_, _, rfl, rfl⟩
theorem EncodeLength.popPsw : EncodeLength.Statement (.popPsw) := fun _ => ⟨_, _, rfl, rfl⟩
theorem EncodeLength.xthl : EncodeLength.Statement (.xthl) := fun _ => ⟨_, _, rfl, rfl⟩
theorem EncodeLength.sphl : EncodeLength.Statement (.sphl) := fun _ => ⟨_, _, rfl, rfl⟩
theorem EncodeLength.inPort (port : Byte) : EncodeLength.Statement (.inPort port) := fun _ => ⟨_, _, rfl, rfl⟩
theorem EncodeLength.outPort (port : Byte) : EncodeLength.Statement (.outPort port) := fun _ => ⟨_, _, rfl, rfl⟩
theorem EncodeLength.ei : EncodeLength.Statement (.ei) := fun _ => ⟨_, _, rfl, rfl⟩
theorem EncodeLength.di : EncodeLength.Statement (.di) := fun _ => ⟨_, _, rfl, rfl⟩
theorem EncodeLength.hlt : EncodeLength.Statement (.hlt) := fun _ => ⟨_, _, rfl, rfl⟩
theorem EncodeLength.nop : EncodeLength.Statement (.nop) := fun _ => ⟨_, _, rfl, rfl⟩
theorem EncodeLength.rim : EncodeLength.Statement (.rim) := fun _ => ⟨_, _, rfl, rfl⟩
theorem EncodeLength.sim : EncodeLength.Statement (.sim) := fun _ => ⟨_, _, rfl, rfl⟩

end Sys2Proof.Laws
end

