-- ==== Sys2Proof/Tests/Slice0.lean ====
section
/-! SUPPORT. Tests: ill-formed terms that WellFormed refuses; every constructor's decoding from a word written out from the encodings of
spec/30_encoding.md; single steps whose expected results are the vectors of spec/95_test_vectors.md (derived there from the rules, by
their ids); and, for every statement with hypotheses, a state that meets them. -/

namespace Sys2Proof.Tests

open Sys2Proof.Machine Sys2Proof.Claims

/-! ### WellFormed refuses (R24) -/

theorem test_wf_ldax_h : (Instr.ldax .h).wellFormed = false := by decide
theorem test_wf_ldax_sp : (Instr.ldax .sp).wellFormed = false := by decide
theorem test_wf_stax_h : (Instr.stax .h).wellFormed = false := by decide
theorem test_wf_stax_sp : (Instr.stax .sp).wellFormed = false := by decide
theorem test_wf_push_sp : (Instr.push .sp).wellFormed = false := by decide
theorem test_wf_pop_sp : (Instr.pop .sp).wellFormed = false := by decide

/-! ### Decoding, from the bit patterns of R91 to R95 -/

/-- The bytes decode to exactly this instruction, and it encodes to them. -/
def codes (bytes : List Byte) (i : Instr) : Bool := decode bytes == .instr i [] && encode i == bytes

theorem test_decode_moves :
    codes [0b00101110, 0x7F] (.mviR .l 0x7F) = true ∧
    codes [0b01111000] (.movRR .a .b) = true ∧
    codes [0b01001110] (.movRM .c) = true ∧
    codes [0b01110011] (.movMR .e) = true ∧
    codes [0b00110110, 0x3C] (.mviM 0x3C) = true ∧
    codes [0b11101011] .xchg = true := by decide

theorem test_decode_pair_and_address_transfers :
    codes [0b00010001, 0x50, 0x20] (.lxi .d 0x2050) = true ∧
    codes [0b00110001, 0x50, 0x20] (.lxi .sp 0x2050) = true ∧
    codes [0b00111010, 0x50, 0x20] (.lda 0x2050) = true ∧
    codes [0b00110010, 0x50, 0x20] (.sta 0x2050) = true ∧
    codes [0b00101010, 0x50, 0x20] (.lhld 0x2050) = true ∧
    codes [0b00100010, 0x50, 0x20] (.shld 0x2050) = true ∧
    codes [0b00011010] (.ldax .d) = true ∧
    codes [0b00000010] (.stax .b) = true := by decide

theorem test_decode_add :
    codes [0b10000100] (.addR .h) = true ∧
    codes [0b10000110] .addM = true ∧
    codes [0b11000110, 0x42] (.adi 0x42) = true ∧
    codes [0b10001001] (.adcR .c) = true ∧
    codes [0b10001110] .adcM = true ∧
    codes [0b11001110, 0xBE] (.aci 0xBE) = true := by decide

theorem test_decode_subtract :
    codes [0b10010010] (.subR .d) = true ∧
    codes [0b10010110] .subM = true ∧
    codes [0b11010110, 0x01] (.sui 0x01) = true ∧
    codes [0b10011101] (.sbbR .l) = true ∧
    codes [0b10011110] .sbbM = true ∧
    codes [0b11011110, 0x01] (.sbi 0x01) = true := by decide

theorem test_decode_increment_and_pair_arithmetic :
    codes [0b00111100] (.inrR .a) = true ∧
    codes [0b00110100] .inrM = true ∧
    codes [0b00000101] (.dcrR .b) = true ∧
    codes [0b00110101] .dcrM = true ∧
    codes [0b00100011] (.inx .h) = true ∧
    codes [0b00011011] (.dcx .d) = true ∧
    codes [0b00111001] (.dad .sp) = true ∧
    codes [0b00100111] .daa = true := by decide

theorem test_decode_logic :
    codes [0b10100001] (.anaR .c) = true ∧
    codes [0b10100110] .anaM = true ∧
    codes [0b11100110, 0x0F] (.ani 0x0F) = true ∧
    codes [0b10101111] (.xraR .a) = true ∧
    codes [0b10101110] .xraM = true ∧
    codes [0b11101110, 0x81] (.xri 0x81) = true ∧
    codes [0b10110001] (.oraR .c) = true ∧
    codes [0b10110110] .oraM = true ∧
    codes [0b11110110, 0x0F] (.ori 0x0F) = true ∧
    codes [0b10111011] (.cmpR .e) = true ∧
    codes [0b10111110] .cmpM = true ∧
    codes [0b11111110, 0x40] (.cpi 0x40) = true := by decide

theorem test_decode_rotate_and_carry :
    codes [0b00000111] .rlc = true ∧
    codes [0b00001111] .rrc = true ∧
    codes [0b00010111] .ral = true ∧
    codes [0b00011111] .rar = true ∧
    codes [0b00101111] .cma = true ∧
    codes [0b00111111] .cmc = true ∧
    codes [0b00110111] .stc = true := by decide

theorem test_decode_jumps :
    codes [0b11000011, 0x50, 0x20] (.jmp 0x2050) = true ∧
    codes [0b11101001] .pchl = true ∧
    codes [0b11000010, 0x50, 0x20] (.jnz 0x2050) = true ∧
    codes [0b11001010, 0x50, 0x20] (.jz 0x2050) = true ∧
    codes [0b11010010, 0x50, 0x20] (.jnc 0x2050) = true ∧
    codes [0b11011010, 0x50, 0x20] (.jc 0x2050) = true ∧
    codes [0b11100010, 0x50, 0x20] (.jpo 0x2050) = true ∧
    codes [0b11101010, 0x50, 0x20] (.jpe 0x2050) = true ∧
    codes [0b11110010, 0x50, 0x20] (.jp 0x2050) = true ∧
    codes [0b11111010, 0x50, 0x20] (.jm 0x2050) = true := by decide

theorem test_decode_calls :
    codes [0b11001101, 0x50, 0x20] (.call 0x2050) = true ∧
    codes [0b11101111] (.rst 5) = true ∧
    codes [0b11000100, 0x50, 0x20] (.cnz 0x2050) = true ∧
    codes [0b11001100, 0x50, 0x20] (.cz 0x2050) = true ∧
    codes [0b11010100, 0x50, 0x20] (.cnc 0x2050) = true ∧
    codes [0b11011100, 0x50, 0x20] (.cc 0x2050) = true ∧
    codes [0b11100100, 0x50, 0x20] (.cpo 0x2050) = true ∧
    codes [0b11101100, 0x50, 0x20] (.cpe 0x2050) = true ∧
    codes [0b11110100, 0x50, 0x20] (.cp 0x2050) = true ∧
    codes [0b11111100, 0x50, 0x20] (.cm 0x2050) = true := by decide

theorem test_decode_returns :
    codes [0b11001001] .ret = true ∧
    codes [0b11000000] .rnz = true ∧
    codes [0b11001000] .rz = true ∧
    codes [0b11010000] .rnc = true ∧
    codes [0b11011000] .rc = true ∧
    codes [0b11100000] .rpo = true ∧
    codes [0b11101000] .rpe = true ∧
    codes [0b11110000] .rp = true ∧
    codes [0b11111000] .rm = true := by decide

theorem test_decode_stack :
    codes [0b11010101] (.push .d) = true ∧
    codes [0b11110101] .pushPsw = true ∧
    codes [0b11100001] (.pop .h) = true ∧
    codes [0b11110001] .popPsw = true ∧
    codes [0b11100011] .xthl = true ∧
    codes [0b11111001] .sphl = true := by decide

theorem test_decode_control :
    codes [0b11011011, 0x10] (.inPort 0x10) = true ∧
    codes [0b11010011, 0x01] (.outPort 0x01) = true ∧
    codes [0b11111011] .ei = true ∧
    codes [0b11110011] .di = true ∧
    codes [0b01110110] .hlt = true ∧
    codes [0b00000000] .nop = true ∧
    codes [0b00100000] .rim = true ∧
    codes [0b00110000] .sim = true := by decide

/-- Each of the ten bytes of R100 is refused by its name; a cut instruction is refused too. -/
theorem test_decode_refuses :
    (unassignedBytes.all fun b => decode [b, 0, 0] == .rejected (.unassigned b)) = true ∧
    decode [0x3E] = .rejected (.truncated 0x3E) ∧ decode [0xC3, 0x00] = .rejected (.truncated 0xC3) ∧
    decode [] = .rejected .empty := by decide

/-- The operand byte of a table word is its second byte, and an operand that the table gives no bits is zero. -/
theorem test_table_words :
    decodeTableWord 16 0x423E = some (.mviR .a 0x42) ∧ decodeTableWord 24 0x2050C3 = some (.jmp 0x2050) ∧
    decodeTableWord 8 0xC3 = some (.jmp 0x0000) ∧ decodeTableWord 8 0x08 = none := by decide

/-! ### One instruction each, from the vectors -/

/-- The start state of the vectors that follow, with a value in every register. -/
def at0 : State :=
  { State.reset with regs := { a := 0xA5, b := 0x3B, c := 0x6E, d := 0xD1, e := 0x47, h := 0x22, l := 0xF8 }, pc := 0x0100 }

/-- The state of a next outcome. -/
def nextState : Result → Option State
  | .next t => some t
  | .fault _ => none
  | .refused _ => none

/-- The instruction ends in the start state with exactly these changes. -/
def runs (i : Instr) (s : State) (changes : State → State) : Bool := nextState (exec i s) == some (changes s)

/-- The step ends in the start state with exactly these changes. -/
def steps (s : State) (changes : State → State) : Bool := nextState (step s) == some (changes s)

/-- Vector T6. -/
theorem test_mvi_r :
    runs (.mviR .a 0xFF) { at0 with regs := { at0.regs with a := 0x00 }, flags := { at0.flags with s := false, z := true } }
      (fun s => { s with regs := { s.regs with a := 0xFF }, pc := 0x0102 }) = true := by decide

/-- Vector T1. -/
theorem test_mov_rr :
    runs (.movRR .b .c) { at0 with
        regs := { at0.regs with b := 0x00, c := 0x5A }, flags := { at0.flags with s := true, cy := true } }
      (fun s => { s with regs := { s.regs with b := 0x5A }, pc := 0x0101 }) = true := by decide

/-- Vector T35. -/
theorem test_mov_rm_reads_before_writing :
    runs (.movRM .l) { at0 with regs := { at0.regs with h := 0x20, l := 0x50 }, mem := [(0x2050, 0x60), (0x2060, 0x77)] }
      (fun s => { s with regs := { s.regs with l := 0x60 }, pc := 0x0101 }) = true := by decide

/-- Vector T5. -/
theorem test_mov_mr :
    runs (.movMR .h) { at0 with regs := { at0.regs with h := 0x20, l := 0x50 } }
      (fun s => { s with pc := 0x0101, mem := [(0x2050, 0x20)] }) = true := by decide

/-- Vector T7. -/
theorem test_mvi_m :
    runs (.mviM 0x3C) { at0 with regs := { at0.regs with h := 0x20, l := 0x50 } }
      (fun s => { s with pc := 0x0102, mem := [(0x2050, 0x3C)] }) = true := by decide

/-- Vector T8. -/
theorem test_lxi :
    runs (.lxi .h 0x2050) { at0 with regs := { at0.regs with h := 0x00, l := 0x00 } }
      (fun s => { s with regs := { s.regs with h := 0x20, l := 0x50 }, pc := 0x0103 }) = true := by decide

/-- Vector T9. -/
theorem test_lxi_sp :
    runs (.lxi .sp 0x2100) { at0 with sp := 0x0000 }
      (fun s => { s with sp := 0x2100, pc := 0x0103 }) = true := by decide

/-- Vector T11. -/
theorem test_lda :
    runs (.lda 0x2050) { at0 with regs := { at0.regs with a := 0x00 }, mem := [(0x2050, 0x7E)] }
      (fun s => { s with regs := { s.regs with a := 0x7E }, pc := 0x0103 }) = true := by decide

/-- Vector T12. -/
theorem test_sta :
    runs (.sta 0xFFFF) { at0 with regs := { at0.regs with a := 0x42 } }
      (fun s => { s with pc := 0x0103, mem := [(0xFFFF, 0x42)] }) = true := by decide

/-- Vector T13. -/
theorem test_lhld_wraps :
    runs (.lhld 0xFFFF) { at0 with regs := { at0.regs with h := 0x00, l := 0x00 }, mem := [(0x0000, 0x12), (0xFFFF, 0x34)] }
      (fun s => { s with regs := { s.regs with h := 0x12, l := 0x34 }, pc := 0x0103 }) = true := by decide

/-- Vector T16. -/
theorem test_shld_wraps :
    runs (.shld 0xFFFF) { at0 with regs := { at0.regs with h := 0xAE, l := 0x29 } }
      (fun s => { s with pc := 0x0103, mem := [(0x0000, 0xAE), (0xFFFF, 0x29)] }) = true := by decide

/-- Vector T17. -/
theorem test_ldax_b :
    runs (.ldax .b) { at0 with regs := { at0.regs with a := 0x00, b := 0x20, c := 0x50 }, mem := [(0x2050, 0x11)] }
      (fun s => { s with regs := { s.regs with a := 0x11 }, pc := 0x0101 }) = true := by decide

/-- Vector T18. -/
theorem test_ldax_d :
    runs (.ldax .d) { at0 with regs := { at0.regs with a := 0x00, d := 0x20, e := 0x51 }, mem := [(0x2051, 0x22)] }
      (fun s => { s with regs := { s.regs with a := 0x22 }, pc := 0x0101 }) = true := by decide

/-- Vector T19. -/
theorem test_stax_b :
    runs (.stax .b) { at0 with regs := { at0.regs with a := 0x77, b := 0x20, c := 0x60 } }
      (fun s => { s with pc := 0x0101, mem := [(0x2060, 0x77)] }) = true := by decide

/-- Vector T20. -/
theorem test_stax_d :
    runs (.stax .d) { at0 with regs := { at0.regs with a := 0x88, d := 0x20, e := 0x61 } }
      (fun s => { s with pc := 0x0101, mem := [(0x2061, 0x88)] }) = true := by decide

/-- Vector T21. -/
theorem test_xchg :
    runs .xchg { at0 with regs := { at0.regs with d := 0xAB, e := 0xCD, h := 0x12, l := 0x34 } }
      (fun s => { s with regs := { s.regs with d := 0x12, e := 0x34, h := 0xAB, l := 0xCD }, pc := 0x0101 }) = true := by decide

/-- Vector A1. -/
theorem test_add_r :
    runs (.addR .b) { at0 with regs := { at0.regs with a := 0x2E, b := 0x6C } }
      (fun s => { s with
        regs := { s.regs with a := 0x9A },
        flags := { s.flags with s := true, ac := true, p := true }, pc := 0x0101 }) = true := by decide

/-- Vector A3. -/
theorem test_add_r_into_sign :
    runs (.addR .b) { at0 with regs := { at0.regs with a := 0x7F, b := 0x01 } }
      (fun s => { s with
        regs := { s.regs with a := 0x80 }, flags := { s.flags with s := true, ac := true }, pc := 0x0101 }) = true := by decide

/-- Vector A5. -/
theorem test_add_m :
    runs .addM { at0 with regs := { at0.regs with a := 0x01, h := 0x20, l := 0x50 }, mem := [(0x2050, 0xFF)] }
      (fun s => { s with
        regs := { s.regs with a := 0x00 },
        flags := { s.flags with z := true, ac := true, p := true, cy := true }, pc := 0x0101 }) = true := by decide

/-- Vector A6. -/
theorem test_adi :
    runs (.adi 0x42) { at0 with regs := { at0.regs with a := 0x14 } }
      (fun s => { s with regs := { s.regs with a := 0x56 }, flags := { s.flags with p := true }, pc := 0x0102 }) = true := by decide

/-- Vector A8. -/
theorem test_adc_r :
    runs (.adcR .c) { at0 with regs := { at0.regs with a := 0xFF, c := 0x00 }, flags := { at0.flags with cy := true } }
      (fun s => { s with
        regs := { s.regs with a := 0x00 },
        flags := { s.flags with z := true, ac := true, p := true }, pc := 0x0101 }) = true := by decide

/-- Vector A9. -/
theorem test_adc_m :
    runs .adcM { at0 with regs := { at0.regs with a := 0x0F, h := 0x20, l := 0x50 }, flags := { at0.flags with cy := true } }
      (fun s => { s with
        regs := { s.regs with a := 0x10 }, flags := { s.flags with ac := true, cy := false }, pc := 0x0101 }) = true := by decide

/-- Vector A11. -/
theorem test_aci :
    runs (.aci 0xFF) { at0 with regs := { at0.regs with a := 0x00 }, flags := { at0.flags with cy := true } }
      (fun s => { s with flags := { s.flags with z := true, ac := true, p := true }, pc := 0x0102 }) = true := by decide

/-- Vector A13. -/
theorem test_sub_r_borrow :
    runs (.subR .b) { at0 with regs := { at0.regs with a := 0x00, b := 0x01 } }
      (fun s => { s with
        regs := { s.regs with a := 0xFF },
        flags := { s.flags with s := true, p := true, cy := true }, pc := 0x0101 }) = true := by decide

/-- Vector A14. -/
theorem test_sub_r :
    runs (.subR .b) { at0 with regs := { at0.regs with a := 0x50, b := 0x10 } }
      (fun s => { s with
        regs := { s.regs with a := 0x40 }, flags := { s.flags with ac := true }, pc := 0x0101 }) = true := by decide

/-- Vector A15. -/
theorem test_sub_m :
    runs .subM { at0 with regs := { at0.regs with a := 0x50, h := 0x20, l := 0x50 }, mem := [(0x2050, 0x10)] }
      (fun s => { s with
        regs := { s.regs with a := 0x40 }, flags := { s.flags with ac := true }, pc := 0x0101 }) = true := by decide

/-- Vector A16. -/
theorem test_sui :
    runs (.sui 0x01) { at0 with regs := { at0.regs with a := 0x00 } }
      (fun s => { s with
        regs := { s.regs with a := 0xFF },
        flags := { s.flags with s := true, p := true, cy := true }, pc := 0x0102 }) = true := by decide

/-- Vector A18. -/
theorem test_sbb_r :
    runs (.sbbR .b) { at0 with regs := { at0.regs with a := 0x00, b := 0xFF }, flags := { at0.flags with cy := true } }
      (fun s => { s with flags := { s.flags with z := true, p := true }, pc := 0x0101 }) = true := by decide

/-- Vector A19. -/
theorem test_sbb_m :
    runs .sbbM { at0 with
        regs := { at0.regs with a := 0x10, h := 0x20, l := 0x50 }, flags := { at0.flags with cy := true }, mem := [(0x2050, 0x0F)] }
      (fun s => { s with
        regs := { s.regs with a := 0x00 },
        flags := { s.flags with z := true, p := true, cy := false }, pc := 0x0101 }) = true := by decide

/-- Vector A21. -/
theorem test_sbi :
    runs (.sbi 0x00) { at0 with regs := { at0.regs with a := 0x00 }, flags := { at0.flags with cy := true } }
      (fun s => { s with
        regs := { s.regs with a := 0xFF }, flags := { s.flags with s := true, p := true }, pc := 0x0102 }) = true := by decide

/-- Vector A23. -/
theorem test_inr_r_keeps_cy :
    runs (.inrR .a) { at0 with regs := { at0.regs with a := 0xFF }, flags := { at0.flags with cy := false } }
      (fun s => { s with
        regs := { s.regs with a := 0x00 },
        flags := { s.flags with z := true, ac := true, p := true }, pc := 0x0101 }) = true := by decide

/-- Vector A26. -/
theorem test_inr_m :
    runs .inrM { at0 with
        regs := { at0.regs with h := 0x20, l := 0x50 }, flags := { at0.flags with cy := true }, mem := [(0x2050, 0xFF)] }
      (fun s => { s with flags := { s.flags with z := true, ac := true, p := true }, pc := 0x0101, mem := [] }) = true := by decide

/-- Vector A28. -/
theorem test_dcr_r_keeps_cy :
    runs (.dcrR .b) { at0 with regs := { at0.regs with b := 0x00 }, flags := { at0.flags with cy := false } }
      (fun s => { s with
        regs := { s.regs with b := 0xFF }, flags := { s.flags with s := true, p := true }, pc := 0x0101 }) = true := by decide

/-- Vector A31. -/
theorem test_dcr_m :
    runs .dcrM { at0 with
        regs := { at0.regs with h := 0x20, l := 0x50 }, flags := { at0.flags with cy := false }, mem := [(0x2050, 0x01)] }
      (fun s => { s with flags := { s.flags with z := true, ac := true, p := true }, pc := 0x0101, mem := [] }) = true := by decide

/-- Vector A32. -/
theorem test_inx :
    runs (.inx .h) { at0 with regs := { at0.regs with h := 0x38, l := 0xFF }, flags := { at0.flags with z := false, cy := false } }
      (fun s => { s with regs := { s.regs with h := 0x39, l := 0x00 }, pc := 0x0101 }) = true := by decide

/-- Vector A34. -/
theorem test_inx_sp_wraps :
    runs (.inx .sp) { at0 with sp := 0xFFFF }
      (fun s => { s with sp := 0x0000, pc := 0x0101 }) = true := by decide

/-- Vector A36. -/
theorem test_dcx_wraps :
    runs (.dcx .d) { at0 with regs := { at0.regs with d := 0x00, e := 0x00 }, flags := { at0.flags with z := true, cy := false } }
      (fun s => { s with regs := { s.regs with d := 0xFF, e := 0xFF }, pc := 0x0101 }) = true := by decide

/-- Vector A37. -/
theorem test_dcx_sp_wraps :
    runs (.dcx .sp) { at0 with sp := 0x0000 }
      (fun s => { s with sp := 0xFFFF, pc := 0x0101 }) = true := by decide

/-- Vector A38. -/
theorem test_dad :
    runs (.dad .b) { at0 with
        regs := { at0.regs with b := 0x33, c := 0x9F, h := 0xA1, l := 0x7B },
        flags := { at0.flags with s := true, z := true, cy := true } }
      (fun s => { s with
        regs := { s.regs with h := 0xD5, l := 0x1A }, flags := { s.flags with cy := false }, pc := 0x0101 }) = true := by decide

/-- Vector A40. -/
theorem test_dad_carry :
    runs (.dad .d) { at0 with
        regs := { at0.regs with d := 0x00, e := 0x01, h := 0xFF, l := 0xFF }, flags := { at0.flags with cy := false } }
      (fun s => { s with
        regs := { s.regs with h := 0x00, l := 0x00 }, flags := { s.flags with cy := true }, pc := 0x0101 }) = true := by decide

/-- Vector A42. -/
theorem test_daa_both :
    runs .daa { at0 with regs := { at0.regs with a := 0x9B }, flags := { at0.flags with ac := false, cy := false } }
      (fun s => { s with
        regs := { s.regs with a := 0x01 }, flags := { s.flags with ac := true, cy := true }, pc := 0x0101 }) = true := by decide

/-- Vector A49. -/
theorem test_daa_carry_in :
    runs .daa { at0 with regs := { at0.regs with a := 0x32 }, flags := { at0.flags with ac := true, cy := true } }
      (fun s => { s with
        regs := { s.regs with a := 0x98 }, flags := { s.flags with s := true, ac := false }, pc := 0x0101 }) = true := by decide

/-- Vector L1. -/
theorem test_ana_r :
    runs (.anaR .c) { at0 with regs := { at0.regs with a := 0xFC, c := 0x0F }, flags := { at0.flags with cy := true } }
      (fun s => { s with
        regs := { s.regs with a := 0x0C },
        flags := { s.flags with ac := true, p := true, cy := false }, pc := 0x0101 }) = true := by decide

/-- Vector L3. -/
theorem test_ana_m :
    runs .anaM { at0 with regs := { at0.regs with a := 0xF0, h := 0x20, l := 0x50 }, mem := [(0x2050, 0x0F)] }
      (fun s => { s with
        regs := { s.regs with a := 0x00 },
        flags := { s.flags with z := true, ac := true, p := true }, pc := 0x0101 }) = true := by decide

/-- Vector L4. -/
theorem test_ani :
    runs (.ani 0x0F) { at0 with regs := { at0.regs with a := 0x3A }, flags := { at0.flags with cy := true } }
      (fun s => { s with
        regs := { s.regs with a := 0x0A },
        flags := { s.flags with ac := true, p := true, cy := false }, pc := 0x0102 }) = true := by decide

/-- Vector L6. -/
theorem test_xra_r :
    runs (.xraR .b) { at0 with regs := { at0.regs with a := 0xFF, b := 0x0F }, flags := { at0.flags with ac := true, cy := true } }
      (fun s => { s with
        regs := { s.regs with a := 0xF0 },
        flags := { s.flags with s := true, ac := false, p := true, cy := false }, pc := 0x0101 }) = true := by decide

/-- Vector L7. -/
theorem test_xra_m :
    runs .xraM { at0 with regs := { at0.regs with a := 0x5C, h := 0x20, l := 0x50 }, mem := [(0x2050, 0x78)] }
      (fun s => { s with regs := { s.regs with a := 0x24 }, flags := { s.flags with p := true }, pc := 0x0101 }) = true := by decide

/-- Vector L8. -/
theorem test_xri :
    runs (.xri 0x81) { at0 with regs := { at0.regs with a := 0x3B }, flags := { at0.flags with cy := true } }
      (fun s => { s with
        regs := { s.regs with a := 0xBA }, flags := { s.flags with s := true, cy := false }, pc := 0x0102 }) = true := by decide

/-- Vector L9. -/
theorem test_ora_r :
    runs (.oraR .c) { at0 with regs := { at0.regs with a := 0x33, c := 0x0F }, flags := { at0.flags with ac := true, cy := true } }
      (fun s => { s with
        regs := { s.regs with a := 0x3F },
        flags := { s.flags with ac := false, p := true, cy := false }, pc := 0x0101 }) = true := by decide

/-- Vector L11. -/
theorem test_ora_m :
    runs .oraM { at0 with regs := { at0.regs with a := 0x80, h := 0x20, l := 0x50 }, mem := [(0x2050, 0x01)] }
      (fun s => { s with
        regs := { s.regs with a := 0x81 }, flags := { s.flags with s := true, p := true }, pc := 0x0101 }) = true := by decide

/-- Vector L12. -/
theorem test_ori :
    runs (.ori 0x0F) { at0 with regs := { at0.regs with a := 0xB5 } }
      (fun s => { s with regs := { s.regs with a := 0xBF }, flags := { s.flags with s := true }, pc := 0x0102 }) = true := by decide

/-- Vector L14. -/
theorem test_cmp_r_less :
    runs (.cmpR .e) { at0 with regs := { at0.regs with a := 0x02, e := 0x05 } }
      (fun s => { s with flags := { s.flags with s := true, cy := true }, pc := 0x0101 }) = true := by decide

/-- Vector L17. -/
theorem test_cmp_r_unsigned :
    runs (.cmpR .b) { at0 with regs := { at0.regs with a := 0xE5, b := 0x05 } }
      (fun s => { s with flags := { s.flags with s := true, ac := true }, pc := 0x0101 }) = true := by decide

/-- Vector L18. -/
theorem test_cmp_m :
    runs .cmpM { at0 with regs := { at0.regs with a := 0x40, h := 0x20, l := 0x50 }, mem := [(0x2050, 0x41)] }
      (fun s => { s with flags := { s.flags with s := true, p := true, cy := true }, pc := 0x0101 }) = true := by decide

/-- Vector L19. -/
theorem test_cpi_equal :
    runs (.cpi 0x40) { at0 with regs := { at0.regs with a := 0x40 } }
      (fun s => { s with flags := { s.flags with z := true, ac := true, p := true }, pc := 0x0102 }) = true := by decide

/-- Vector L22. -/
theorem test_rlc :
    runs .rlc { at0 with regs := { at0.regs with a := 0xF2 }, flags := { at0.flags with z := false, cy := false } }
      (fun s => { s with
        regs := { s.regs with a := 0xE5 }, flags := { s.flags with cy := true }, pc := 0x0101 }) = true := by decide

/-- Vector L25. -/
theorem test_rrc :
    runs .rrc { at0 with regs := { at0.regs with a := 0x01 }, flags := { at0.flags with cy := false } }
      (fun s => { s with
        regs := { s.regs with a := 0x80 }, flags := { s.flags with cy := true }, pc := 0x0101 }) = true := by decide

/-- Vector L26. -/
theorem test_ral :
    runs .ral { at0 with regs := { at0.regs with a := 0xB5 }, flags := { at0.flags with cy := false } }
      (fun s => { s with
        regs := { s.regs with a := 0x6A }, flags := { s.flags with cy := true }, pc := 0x0101 }) = true := by decide

/-- Vector L28. -/
theorem test_rar :
    runs .rar { at0 with regs := { at0.regs with a := 0x6A }, flags := { at0.flags with cy := true } }
      (fun s => { s with
        regs := { s.regs with a := 0xB5 }, flags := { s.flags with cy := false }, pc := 0x0101 }) = true := by decide

/-- Vector L30. -/
theorem test_cma :
    runs .cma { at0 with regs := { at0.regs with a := 0x51 }, flags := { at0.flags with s := false, z := true, cy := true } }
      (fun s => { s with regs := { s.regs with a := 0xAE }, pc := 0x0101 }) = true := by decide

/-- Vector L31. -/
theorem test_cmc :
    runs .cmc { at0 with flags := { at0.flags with cy := true } }
      (fun s => { s with flags := { s.flags with cy := false }, pc := 0x0101 }) = true := by decide

/-- Vector L33. -/
theorem test_stc :
    runs .stc { at0 with flags := { at0.flags with cy := false } }
      (fun s => { s with flags := { s.flags with cy := true }, pc := 0x0101 }) = true := by decide

/-- Vector B1. -/
theorem test_jmp :
    runs (.jmp 0x2000) at0
      (fun s => { s with pc := 0x2000 }) = true := by decide

/-- Vectors B4 and B5. -/
theorem test_jnz :
    runs (.jnz 0x3000) { at0 with flags := { at0.flags with z := false } }
      (fun s => { s with pc := 0x3000 }) = true ∧
    runs (.jnz 0x3000) { at0 with flags := { at0.flags with z := true } }
      (fun s => { s with pc := 0x0103 }) = true := by decide

/-- Vectors B6 and B7. -/
theorem test_jz :
    runs (.jz 0x3000) { at0 with flags := { at0.flags with z := false } }
      (fun s => { s with pc := 0x0103 }) = true ∧
    runs (.jz 0x3000) { at0 with flags := { at0.flags with z := true } }
      (fun s => { s with pc := 0x3000 }) = true := by decide

/-- Vectors B8 and B9. -/
theorem test_jnc :
    runs (.jnc 0x3000) { at0 with flags := { at0.flags with cy := false } }
      (fun s => { s with pc := 0x3000 }) = true ∧
    runs (.jnc 0x3000) { at0 with flags := { at0.flags with cy := true } }
      (fun s => { s with pc := 0x0103 }) = true := by decide

/-- Vectors B10 and B11. -/
theorem test_jc :
    runs (.jc 0x3000) { at0 with flags := { at0.flags with cy := false } }
      (fun s => { s with pc := 0x0103 }) = true ∧
    runs (.jc 0x3000) { at0 with flags := { at0.flags with cy := true } }
      (fun s => { s with pc := 0x3000 }) = true := by decide

/-- Vectors B12 and B13. -/
theorem test_jpo :
    runs (.jpo 0x3000) { at0 with flags := { at0.flags with p := false } }
      (fun s => { s with pc := 0x3000 }) = true ∧
    runs (.jpo 0x3000) { at0 with flags := { at0.flags with p := true } }
      (fun s => { s with pc := 0x0103 }) = true := by decide

/-- Vectors B14 and B15. -/
theorem test_jpe :
    runs (.jpe 0x3000) { at0 with flags := { at0.flags with p := false } }
      (fun s => { s with pc := 0x0103 }) = true ∧
    runs (.jpe 0x3000) { at0 with flags := { at0.flags with p := true } }
      (fun s => { s with pc := 0x3000 }) = true := by decide

/-- Vectors B16 and B17. -/
theorem test_jp :
    runs (.jp 0x3000) { at0 with flags := { at0.flags with s := false } }
      (fun s => { s with pc := 0x3000 }) = true ∧
    runs (.jp 0x3000) { at0 with flags := { at0.flags with s := true } }
      (fun s => { s with pc := 0x0103 }) = true := by decide

/-- Vectors B18 and B19. -/
theorem test_jm :
    runs (.jm 0x3000) { at0 with flags := { at0.flags with s := false } }
      (fun s => { s with pc := 0x0103 }) = true ∧
    runs (.jm 0x3000) { at0 with flags := { at0.flags with s := true } }
      (fun s => { s with pc := 0x3000 }) = true := by decide

/-- Vector B21. -/
theorem test_call_wraps :
    runs (.call 0x3000) { at0 with sp := 0x0001, pc := 0x2000 }
      (fun s => { s with sp := 0xFFFF, pc := 0x3000, mem := [(0x0000, 0x20), (0xFFFF, 0x03)] }) = true := by decide

/-- Vectors B23 and B24. -/
theorem test_cnz :
    runs (.cnz 0x3000) { at0 with flags := { at0.flags with z := false }, sp := 0x4000, pc := 0x2000 }
      (fun s => { s with sp := 0x3FFE, pc := 0x3000, mem := [(0x3FFE, 0x03), (0x3FFF, 0x20)] }) = true ∧
    runs (.cnz 0x3000) { at0 with flags := { at0.flags with z := true }, sp := 0x4000, pc := 0x2000 }
      (fun s => { s with pc := 0x2003 }) = true := by decide

/-- Vectors B25 and B26. -/
theorem test_cz :
    runs (.cz 0x3000) { at0 with flags := { at0.flags with z := false }, sp := 0x4000, pc := 0x2000 }
      (fun s => { s with pc := 0x2003 }) = true ∧
    runs (.cz 0x3000) { at0 with flags := { at0.flags with z := true }, sp := 0x4000, pc := 0x2000 }
      (fun s => { s with sp := 0x3FFE, pc := 0x3000, mem := [(0x3FFE, 0x03), (0x3FFF, 0x20)] }) = true := by decide

/-- Vectors B27 and B28. -/
theorem test_cnc :
    runs (.cnc 0x3000) { at0 with flags := { at0.flags with cy := false }, sp := 0x4000, pc := 0x2000 }
      (fun s => { s with sp := 0x3FFE, pc := 0x3000, mem := [(0x3FFE, 0x03), (0x3FFF, 0x20)] }) = true ∧
    runs (.cnc 0x3000) { at0 with flags := { at0.flags with cy := true }, sp := 0x4000, pc := 0x2000 }
      (fun s => { s with pc := 0x2003 }) = true := by decide

/-- Vectors B29 and B30. -/
theorem test_cc :
    runs (.cc 0x3000) { at0 with flags := { at0.flags with cy := false }, sp := 0x4000, pc := 0x2000 }
      (fun s => { s with pc := 0x2003 }) = true ∧
    runs (.cc 0x3000) { at0 with flags := { at0.flags with cy := true }, sp := 0x4000, pc := 0x2000 }
      (fun s => { s with sp := 0x3FFE, pc := 0x3000, mem := [(0x3FFE, 0x03), (0x3FFF, 0x20)] }) = true := by decide

/-- Vectors B31 and B32. -/
theorem test_cpo :
    runs (.cpo 0x3000) { at0 with flags := { at0.flags with p := false }, sp := 0x4000, pc := 0x2000 }
      (fun s => { s with sp := 0x3FFE, pc := 0x3000, mem := [(0x3FFE, 0x03), (0x3FFF, 0x20)] }) = true ∧
    runs (.cpo 0x3000) { at0 with flags := { at0.flags with p := true }, sp := 0x4000, pc := 0x2000 }
      (fun s => { s with pc := 0x2003 }) = true := by decide

/-- Vectors B33 and B34. -/
theorem test_cpe :
    runs (.cpe 0x3000) { at0 with flags := { at0.flags with p := false }, sp := 0x4000, pc := 0x2000 }
      (fun s => { s with pc := 0x2003 }) = true ∧
    runs (.cpe 0x3000) { at0 with flags := { at0.flags with p := true }, sp := 0x4000, pc := 0x2000 }
      (fun s => { s with sp := 0x3FFE, pc := 0x3000, mem := [(0x3FFE, 0x03), (0x3FFF, 0x20)] }) = true := by decide

/-- Vectors B35 and B36. -/
theorem test_cp :
    runs (.cp 0x3000) { at0 with flags := { at0.flags with s := false }, sp := 0x4000, pc := 0x2000 }
      (fun s => { s with sp := 0x3FFE, pc := 0x3000, mem := [(0x3FFE, 0x03), (0x3FFF, 0x20)] }) = true ∧
    runs (.cp 0x3000) { at0 with flags := { at0.flags with s := true }, sp := 0x4000, pc := 0x2000 }
      (fun s => { s with pc := 0x2003 }) = true := by decide

/-- Vectors B37 and B38. -/
theorem test_cm :
    runs (.cm 0x3000) { at0 with flags := { at0.flags with s := false }, sp := 0x4000, pc := 0x2000 }
      (fun s => { s with pc := 0x2003 }) = true ∧
    runs (.cm 0x3000) { at0 with flags := { at0.flags with s := true }, sp := 0x4000, pc := 0x2000 }
      (fun s => { s with sp := 0x3FFE, pc := 0x3000, mem := [(0x3FFE, 0x03), (0x3FFF, 0x20)] }) = true := by decide

/-- Vector B40. -/
theorem test_ret_wraps :
    runs .ret { at0 with sp := 0xFFFF, pc := 0x3010, mem := [(0x0000, 0x20), (0xFFFF, 0x03)] }
      (fun s => { s with sp := 0x0001, pc := 0x2003 }) = true := by decide

/-- Vectors B41 and B42. -/
theorem test_rnz :
    runs .rnz { at0 with
        flags := { at0.flags with z := false }, sp := 0x3FFE, pc := 0x3010, mem := [(0x3FFE, 0x03), (0x3FFF, 0x20)] }
      (fun s => { s with sp := 0x4000, pc := 0x2003 }) = true ∧
    runs .rnz { at0 with
        flags := { at0.flags with z := true }, sp := 0x3FFE, pc := 0x3010, mem := [(0x3FFE, 0x03), (0x3FFF, 0x20)] }
      (fun s => { s with pc := 0x3011 }) = true := by decide

/-- Vectors B43 and B44. -/
theorem test_rz :
    runs .rz { at0 with
        flags := { at0.flags with z := false }, sp := 0x3FFE, pc := 0x3010, mem := [(0x3FFE, 0x03), (0x3FFF, 0x20)] }
      (fun s => { s with pc := 0x3011 }) = true ∧
    runs .rz { at0 with flags := { at0.flags with z := true }, sp := 0x3FFE, pc := 0x3010, mem := [(0x3FFE, 0x03), (0x3FFF, 0x20)] }
      (fun s => { s with sp := 0x4000, pc := 0x2003 }) = true := by decide

/-- Vectors B45 and B46. -/
theorem test_rnc :
    runs .rnc { at0 with
        flags := { at0.flags with cy := false }, sp := 0x3FFE, pc := 0x3010, mem := [(0x3FFE, 0x03), (0x3FFF, 0x20)] }
      (fun s => { s with sp := 0x4000, pc := 0x2003 }) = true ∧
    runs .rnc { at0 with
        flags := { at0.flags with cy := true }, sp := 0x3FFE, pc := 0x3010, mem := [(0x3FFE, 0x03), (0x3FFF, 0x20)] }
      (fun s => { s with pc := 0x3011 }) = true := by decide

/-- Vectors B47 and B48. -/
theorem test_rc :
    runs .rc { at0 with
        flags := { at0.flags with cy := false }, sp := 0x3FFE, pc := 0x3010, mem := [(0x3FFE, 0x03), (0x3FFF, 0x20)] }
      (fun s => { s with pc := 0x3011 }) = true ∧
    runs .rc { at0 with
        flags := { at0.flags with cy := true }, sp := 0x3FFE, pc := 0x3010, mem := [(0x3FFE, 0x03), (0x3FFF, 0x20)] }
      (fun s => { s with sp := 0x4000, pc := 0x2003 }) = true := by decide

/-- Vectors B49 and B50. -/
theorem test_rpo :
    runs .rpo { at0 with
        flags := { at0.flags with p := false }, sp := 0x3FFE, pc := 0x3010, mem := [(0x3FFE, 0x03), (0x3FFF, 0x20)] }
      (fun s => { s with sp := 0x4000, pc := 0x2003 }) = true ∧
    runs .rpo { at0 with
        flags := { at0.flags with p := true }, sp := 0x3FFE, pc := 0x3010, mem := [(0x3FFE, 0x03), (0x3FFF, 0x20)] }
      (fun s => { s with pc := 0x3011 }) = true := by decide

/-- Vectors B51 and B52. -/
theorem test_rpe :
    runs .rpe { at0 with
        flags := { at0.flags with p := false }, sp := 0x3FFE, pc := 0x3010, mem := [(0x3FFE, 0x03), (0x3FFF, 0x20)] }
      (fun s => { s with pc := 0x3011 }) = true ∧
    runs .rpe { at0 with
        flags := { at0.flags with p := true }, sp := 0x3FFE, pc := 0x3010, mem := [(0x3FFE, 0x03), (0x3FFF, 0x20)] }
      (fun s => { s with sp := 0x4000, pc := 0x2003 }) = true := by decide

/-- Vectors B53 and B54. -/
theorem test_rp :
    runs .rp { at0 with
        flags := { at0.flags with s := false }, sp := 0x3FFE, pc := 0x3010, mem := [(0x3FFE, 0x03), (0x3FFF, 0x20)] }
      (fun s => { s with sp := 0x4000, pc := 0x2003 }) = true ∧
    runs .rp { at0 with flags := { at0.flags with s := true }, sp := 0x3FFE, pc := 0x3010, mem := [(0x3FFE, 0x03), (0x3FFF, 0x20)] }
      (fun s => { s with pc := 0x3011 }) = true := by decide

/-- Vectors B55 and B56. -/
theorem test_rm :
    runs .rm { at0 with
        flags := { at0.flags with s := false }, sp := 0x3FFE, pc := 0x3010, mem := [(0x3FFE, 0x03), (0x3FFF, 0x20)] }
      (fun s => { s with pc := 0x3011 }) = true ∧
    runs .rm { at0 with flags := { at0.flags with s := true }, sp := 0x3FFE, pc := 0x3010, mem := [(0x3FFE, 0x03), (0x3FFF, 0x20)] }
      (fun s => { s with sp := 0x4000, pc := 0x2003 }) = true := by decide

/-- Vector B62. -/
theorem test_rst :
    runs (.rst 5) { at0 with sp := 0x4000, pc := 0x1234 }
      (fun s => { s with sp := 0x3FFE, pc := 0x0028, mem := [(0x3FFE, 0x35), (0x3FFF, 0x12)] }) = true := by decide

/-- Vector B65. -/
theorem test_pchl :
    runs .pchl { at0 with regs := { at0.regs with h := 0x41, l := 0x3E } }
      (fun s => { s with pc := 0x413E }) = true := by decide

/-- Vector K2. -/
theorem test_push :
    runs (.push .d) { at0 with regs := { at0.regs with d := 0xAB, e := 0xCD }, sp := 0x4000 }
      (fun s => { s with sp := 0x3FFE, pc := 0x0101, mem := [(0x3FFE, 0xCD), (0x3FFF, 0xAB)] }) = true := by decide

/-- Vector K4. -/
theorem test_push_wraps :
    runs (.push .h) { at0 with regs := { at0.regs with h := 0xBE, l := 0xEF }, sp := 0x0001 }
      (fun s => { s with sp := 0xFFFF, pc := 0x0101, mem := [(0x0000, 0xBE), (0xFFFF, 0xEF)] }) = true := by decide

/-- Vector K8. -/
theorem test_pop :
    runs (.pop .d) { at0 with
        regs := { at0.regs with d := 0x00, e := 0x00 }, sp := 0x3FFE, mem := [(0x3FFE, 0x34), (0x3FFF, 0x12)] }
      (fun s => { s with regs := { s.regs with d := 0x12, e := 0x34 }, sp := 0x4000, pc := 0x0101 }) = true := by decide

/-- Vector K9. -/
theorem test_pop_wraps :
    runs (.pop .h) { at0 with
        regs := { at0.regs with h := 0x00, l := 0x00 }, sp := 0xFFFF, mem := [(0x0000, 0x12), (0xFFFF, 0x34)] }
      (fun s => { s with regs := { s.regs with h := 0x12, l := 0x34 }, sp := 0x0001, pc := 0x0101 }) = true := by decide

/-- Vector K10. -/
theorem test_pop_psw :
    runs .popPsw { at0 with
        regs := { at0.regs with a := 0x00 },
        flags := { at0.flags with s := false, z := false, ac := false, p := false, cy := false }, sp := 0x3FFE,
        mem := [(0x3FFE, 0xC3), (0x3FFF, 0xFF)] }
      (fun s => { s with
        regs := { s.regs with a := 0xFF },
        flags := { s.flags with s := true, z := true, cy := true }, sp := 0x4000, pc := 0x0101 }) = true := by decide

/-- Vector K12. -/
theorem test_pop_psw_ignores_fill :
    runs .popPsw { at0 with
        regs := { at0.regs with a := 0x00 },
        flags := { at0.flags with s := true, z := true, ac := true, p := true, cy := true }, sp := 0x3FFE,
        mem := [(0x3FFE, 0x2A), (0x3FFF, 0x80)] }
      (fun s => { s with
        regs := { s.regs with a := 0x80 },
        flags := { s.flags with s := false, z := false, ac := false, p := false, cy := false },
        sp := 0x4000, pc := 0x0101 }) = true := by decide

/-- Vector K13. -/
theorem test_xthl :
    runs .xthl { at0 with regs := { at0.regs with h := 0x0B, l := 0x3C }, sp := 0x3FFE, mem := [(0x3FFE, 0xF0), (0x3FFF, 0x0D)] }
      (fun s => { s with
        regs := { s.regs with h := 0x0D, l := 0xF0 }, pc := 0x0101, mem := [(0x3FFE, 0x3C), (0x3FFF, 0x0B)] }) = true := by decide

/-- Vector K14. -/
theorem test_sphl :
    runs .sphl { at0 with regs := { at0.regs with h := 0x50, l := 0x6C }, sp := 0x0000 }
      (fun s => { s with sp := 0x506C, pc := 0x0101 }) = true := by decide

/-- Vector K16. -/
theorem test_out :
    runs (.outPort 0x01) { at0 with regs := { at0.regs with a := 0x3C } }
      (fun s => { s with pc := 0x0102, outputs := [.port 0x01 0x3C] }) = true := by decide

/-- Vector K17. -/
theorem test_ei :
    runs .ei { at0 with inte := false, eiPending := false }
      (fun s => { s with pc := 0x0101, inte := false, eiPending := true }) = true := by decide

/-- Vector K23b. -/
theorem test_di :
    runs .di { at0 with inte := false, eiPending := true }
      (fun s => { s with pc := 0x0101, inte := false, eiPending := false }) = true := by decide

/-- Vector K24. -/
theorem test_hlt :
    runs .hlt { at0 with pc := 0x0105 }
      (fun s => { s with pc := 0x0106, halted := true }) = true := by decide

/-- Vector K25. -/
theorem test_nop :
    runs .nop at0
      (fun s => { s with pc := 0x0101 }) = true := by decide

/-- Vector K28. -/
theorem test_sim_masks :
    runs .sim { at0 with regs := { at0.regs with a := 0x0D }, m75 := true, m65 := true, m55 := true }
      (fun s => { s with pc := 0x0101, m75 := true, m65 := false, m55 := true }) = true := by decide

/-- Vector K34. -/
theorem test_sim_clears_latch :
    runs .sim { at0 with regs := { at0.regs with a := 0x1F }, m75 := false, m65 := false, m55 := false, i75 := true, sod := true }
      (fun s => { s with pc := 0x0101, m75 := true, m65 := true, m55 := true, i75 := false, sod := true }) = true := by decide

/-! ### Instructions with a free value: what the rules do fix -/

/-- Vectors K5 and K6, which show the fill bits as 0: the flag byte. -/
theorem test_flag_byte :
    Flags.toByte ⟨true, false, true, true, true⟩ 0 = 0x95 ∧ Flags.toByte ⟨false, true, false, true, false⟩ 0 = 0x44 ∧
    Flags.toByte ⟨false, false, false, false, false⟩ 7 = 0x2A := by decide

/-- Vector K5: SP and PC after PUSH PSW. -/
theorem test_push_psw :
    (nextState (exec .pushPsw { at0 with sp := 0x4000 })).map (fun t => (t.sp, t.pc, t.flags, t.regs)) =
      some (0x3FFE, 0x0101, at0.flags, at0.regs) := by decide

/-- Vector K15, but for A: IN advances PC and writes no flag. -/
theorem test_in :
    (nextState (exec (.inPort 0x10) { at0 with flags := { at0.flags with z := true } })).map (fun t => (t.pc, t.flags)) =
      some (0x0102, { at0.flags with z := true }) := by decide

/-- Vectors K26 and K27, whose inputs are low: the byte RIM loads. -/
theorem test_rim_byte :
    rimByte false false false false false true true true = 0x07 ∧ rimByte false true false false true false true false = 0x4A := by
  decide

/-- RIM advances PC and writes no flag. -/
theorem test_rim :
    (nextState (exec .rim at0)).map (fun t => (t.pc, t.flags, t.regs.b)) = some (0x0101, at0.flags, 0x3B) := by decide

/-! ### Steps: fetch, the EI delay, interrupts, reset, stops -/

/-- Vector T10: an instruction that straddles the top of memory. -/
theorem test_step_wraps :
    steps { at0 with pc := 0xFFFE, mem := [(0x0000, 0xBE), (0xFFFE, 0x01), (0xFFFF, 0xEF)] }
      (fun s => { s with regs := { s.regs with b := 0xBE, c := 0xEF }, pc := 0x0001 }) = true := by decide

/-- Vectors K17 and K18, one step each: EI leaves INTE at 0, the next instruction sets it. -/
theorem test_step_ei_delay :
    steps { at0 with mem := [(0x0100, 0xFB)] } (fun s => { s with eiPending := true, pc := 0x0101 }) = true ∧
    steps { at0 with eiPending := true } (fun s => { s with inte := true, eiPending := false, pc := 0x0101 }) = true := by decide

/-- A boundary input with every line low but those named. -/
def lines (trap : Bool := false) (rst75Edge : Bool := false) (rst65 : Bool := false) (intr : Bool := false) : BoundaryInput :=
  { BoundaryInput.quiet with trapEdge := trap, trapLevel := trap, rst75Edge := rst75Edge, rst65 := rst65, intr := intr, supplied := .rst 7 }

/-- R325, R328: TRAP wins over RST 6.5 and pushes the address of the next instruction. -/
theorem test_step_trap :
    steps { at0 with sp := 0x4000, inte := true, m65 := false, inputs := [lines (trap := true) (rst65 := true)] }
      (fun s =>
        { s with inte := false, sp := 0x3FFE, pc := 0x0024, mem := [(0x3FFE, 0x01), (0x3FFF, 0x01)], inputs := [], trapRim := true }) =
      true := by decide

/-- R328: RST 7.5 clears its latch and ends a halt. -/
theorem test_step_rst75_wakes :
    steps { at0 with sp := 0x4000, halted := true, inte := true, m75 := false, inputs := [lines (rst75Edge := true)] }
      (fun s => { s with halted := false, inte := false, sp := 0x3FFE, pc := 0x003C, mem := [(0x3FFF, 0x01)], inputs := [] }) = true := by
  decide

/-- R333: INTR runs the supplied RST 7, with the interrupted PC as its return address. -/
theorem test_step_intr :
    steps { at0 with sp := 0x4000, inte := true, inputs := [lines (intr := true)] }
      (fun s => { s with inte := false, sp := 0x3FFE, pc := 0x0038, mem := [(0x3FFE, 0x01), (0x3FFF, 0x01)], inputs := [] }) = true := by
  decide

/-- R361: a reset after one of the two writes of a CALL leaves the high byte of the return address and nothing else of the call. -/
theorem test_step_reset_in_call :
    (nextState (step { at0 with
        sp := 0x4000, mem := [(0x0100, 0xCD), (0x0102, 0x30)], inputs := [{ BoundaryInput.quiet with reset := some 1 }] })).map
      (fun t => (t.pc, t.mem)) = some (0x0000, [(0x0100, 0xCD), (0x0102, 0x30), (0x3FFF, 0x01)]) := by decide

/-- R100: the step refuses an unassigned byte by name. -/
theorem test_step_refuses : step { at0 with mem := [(0x0100, 0xDD)] } = .refused (.illegalOpcode 0xDD) := rfl

/-- R6, D3: where the platform lets an unassigned byte act as a one-byte NOP, it does. -/
theorem test_step_illegal_nop :
    steps { at0 with params := { Params.standard with illegalOpcode := .nop }, mem := [(0x0100, 0xDD)] }
      (fun s => { s with pc := 0x0101 }) = true := by decide

/-- R6, D14: under the premise that no interrupt is ever requested, lines that move do nothing. -/
theorem test_step_no_interrupts :
    steps
      { at0 with
        sp := 0x4000, inte := true, m75 := false, m65 := false
        params := { Params.standard with interrupts := .absent }
        inputs := [lines (trap := true) (rst75Edge := true) (rst65 := true) (intr := true)] }
      (fun s => { s with pc := 0x0101, inputs := [] }) = true := by decide

/-- R6, R322, R325: a platform that ranks RST 6.5 over TRAP and enters it at 0x1234. -/
theorem test_step_other_interrupts :
    steps
      { at0 with
        sp := 0x4000, inte := true, m65 := false
        params :=
          { Params.standard with interrupts := { InterruptSet.standard with priority := [.rst65, .trap], rst65Entry := 0x1234 } }
        inputs := [lines (trap := true) (rst65 := true)] }
      (fun s =>
        { s with
          inte := false, sp := 0x3FFE, pc := 0x1234, mem := [(0x3FFE, 0x01), (0x3FFF, 0x01)], inputs := [], trapPending := true }) =
      true := by decide

/-- R6, R360: a reset goes to the platform's RESET_PC. -/
theorem test_step_reset_pc :
    (nextState (step
        { State.resetWith { Params.standard with resetPc := 0x8000 } [] with
          pc := 0x0100, inputs := [{ BoundaryInput.quiet with reset := some 0 }] })).map (fun t => t.pc) = some 0x8000 := by decide

/-- The host's placement of a table word runs as the first instruction after reset. -/
theorem test_fetch_word :
    (nextState (step (State.reset.withFetchWord 16 0x423E))).map (fun t => (t.regs.a, t.pc)) = some (0x42, 0x0002) := by decide

/-! ### Witnesses: for every statement with hypotheses, a state and operands that meet them together -/

/-- The bytes of an instruction stand at PC, in RAM. -/
def stands (s : State) (i : Instr) : Bool :=
  (encode i).zipIdx.all fun x =>
    s.region (s.pc + BitVec.ofNat 16 x.2) == .ram && s.byteAt (s.pc + BitVec.ofNat 16 x.2) == x.1

theorem at_of_stands {s : State} {i : Instr} (h : stands s i = true) : At s i := by
  intro k b hb
  have hm := List.all_eq_true.1 h (b, k) (List.mk_mem_zipIdx_iff_getElem?.2 hb)
  simp only [Bool.and_eq_true, beq_iff_eq] at hm
  exact ⟨.inl hm.1, hm.2⟩

/-- LXI B, 0xBEEF across the top of memory (vector T10). -/
def atTop : State := { at0 with pc := 0xFFFE, mem := [(0x0000, 0xBE), (0xFFFE, 0x01), (0xFFFF, 0xEF)] }

/-- The stack whose two bytes lie on both sides of address 0. -/
def sp1 : State := { at0 with sp := 0x0001, mem := [(0x0000, 0x12), (0xFFFF, 0x34)] }

/-- Every address is a ROM whose writes nobody defines. -/
def allRom : State := { at0 with memMap := [⟨0x0000, 0xFFFF, .rom false⟩] }

/-- A halted machine that a TRAP wakes, with a reset after the first write of the entry. -/
def resetInEntry : State :=
  { at0 with sp := 0x0001, pc := 0x1234, halted := true, inputs := [{ lines (trap := true) with reset := some 1 }] }

/-- A CALL at PC, with a reset after one write. -/
def resetInCall : State :=
  { at0 with
    sp := 0x4000
    mem := [(0x0100, 0xCD), (0x0102, 0x30)]
    inputs := [{ BoundaryInput.quiet with reset := some 1 }] }

/-- The default map: every address is RAM, no write is refused. -/
theorem default_map {s : State} (h : s.memMap = []) (a : Word) : s.region a = .ram := State.region_default h a

theorem witness_DecodeOfEncode : (Instr.lxi .sp 0xFFFF).wellFormed = true ∧ (Instr.ldax .d).wellFormed = true := by decide

theorem witness_DecodeAnswersOnlyEncodings : decode [0xC3, 0xFF, 0xFF, 0x00] = .instr (.jmp 0xFFFF) [0x00] := by decide

theorem witness_LengthByFirstByte :
    (0xC3 : Byte) ∈ threeByteOpcodes ∧ (0x3E : Byte) ∈ twoByteOpcodes ∧
    (0xFF : Byte) ∉ threeByteOpcodes ∧ (0xFF : Byte) ∉ twoByteOpcodes ∧ (0xFF : Byte) ∉ unassignedBytes := by decide

/-- Both values of ILLEGAL_OPCODE. -/
theorem witness_TenFirstBytesAreRefused :
    let s := { at0 with mem := [(0x0100, 0xFD)] }
    let u := { s with params := { s.params with illegalOpcode := .nop } }
    Running s ∧ first s s.pc ∈ unassignedBytes ∧ s.params.illegalOpcode = .refuse ∧
    Running u ∧ first u u.pc ∈ unassignedBytes ∧ u.params.illegalOpcode = .nop :=
  ⟨⟨rfl, rfl⟩, by decide, rfl, ⟨rfl, rfl⟩, by decide, rfl⟩

theorem witness_StepRunsDecodedInstruction : (Instr.lxi .b 0xBEEF).wellFormed = true ∧ Running atTop ∧ At atTop (.lxi .b 0xBEEF) :=
  ⟨rfl, ⟨rfl, rfl⟩, at_of_stands (by decide)⟩

theorem witness_StepStopsOnlyTwoWays :
    step { at0 with mem := [(0x0100, 0x08)] } = .refused (.illegalOpcode 0x08) ∧
    step { allRom with mem := [(0x0100, 0x32), (0x0101, 0xFF), (0x0102, 0xFF)] } = .refused (.romWrite 0xFFFF) := ⟨rfl, rfl⟩

theorem witness_EveryInstructionCompletes : WritesDefined at0 := fun a => by rw [default_map rfl a]; decide

theorem witness_StepKeepsMemoryCanonical : sp1.Inv ∧ ∃ t, step sp1 = .next t := ⟨by decide, _, rfl⟩

/-- Each clause: an IN that runs, a halted step, a reset, and an instruction with a stack of device and absent addresses. -/
theorem witness_StepKeepsPlatformBookkeeping :
    let s := { at0 with mem := [(0x0100, 0xDB)] }
    let h := { at0 with halted := true }
    let r := { at0 with inputs := [{ BoundaryInput.quiet with reset := some 0 }] }
    let d := { at0 with sp := 0xFFFF, memMap := [⟨0xFFFF, 0xFFFF, .device⟩, ⟨0x0000, 0x0000, .absent⟩] }
    (∃ t, step s = .next t) ∧ Running s ∧ s.fetch.1 = .instr (.inPort 0x00) [] ∧
    readDraws s (fetchReads s) + drawsOf (.inPort 0x00) s = 1 ∧
    (∃ t, step h = .next t) ∧ h.boundaryInput.reset = none ∧ h.halted = true ∧
    (∃ t, step r = .next t) ∧ r.boundaryInput.reset ≠ none ∧
    (∃ t, exec (.pop .b) d = .next t) ∧ drawsOf (.pop .b) d = 2 ∧ drawsOf .rz d = 0 ∧ drawsOf .rnz d = 2 :=
  ⟨⟨_, rfl⟩, ⟨rfl, rfl⟩, rfl, by decide, ⟨_, rfl⟩, rfl, rfl, ⟨_, rfl⟩, by decide, ⟨_, rfl⟩, by decide, by decide, by decide⟩

/-- An instruction that goes on, a jump not taken, a call not taken. -/
theorem witness_PcAdvancesByLength :
    (∃ t, exec (.sta 0xFFFF) at0 = .next t) ∧ transfers at0.flags (.sta 0xFFFF) = false ∧
    (∃ t, exec (.jz 0) at0 = .next t) ∧ transfers at0.flags (.jz 0) = false ∧
    (∃ t, exec (.cm 0) at0 = .next t) ∧ transfers at0.flags (.cm 0) = false :=
  ⟨⟨_, rfl⟩, rfl, ⟨_, rfl⟩, rfl, ⟨_, rfl⟩, rfl⟩

theorem witness_WritesInStatedOrder :
    (∃ t, exec (.shld 0xFFFF) at0 = .next t) ∧ exec (.shld 0xFFFF) allRom = .refused (.romWrite 0xFFFF) := ⟨⟨_, rfl⟩, rfl⟩

/-- A store that writes elsewhere, and an instruction that writes nothing. -/
theorem witness_MemoryFrame :
    (∃ t, exec (.sta 0xFFFF) at0 = .next t) ∧ (∀ v, BusWrite.mem 0x0000 v ∉ writesOf (.sta 0xFFFF) at0) ∧
    (∃ t, exec (.cmpR .b) at0 = .next t) ∧ (∀ v, BusWrite.mem 0x0000 v ∉ writesOf (.cmpR .b) at0) :=
  ⟨⟨_, rfl⟩, fun _ h => absurd (BusWrite.mem.inj (List.mem_singleton.1 h)).1 (by decide), ⟨_, rfl⟩,
    fun _ h => nomatch h⟩

theorem witness_RegisterFrame :
    (∃ t, exec (.mviR .b 0xFF) at0 = .next t) ∧ Reg.c ∉ destinations (.mviR .b 0xFF) ∧ writesSp (.mviR .b 0xFF) = false :=
  ⟨⟨_, rfl⟩, by decide, rfl⟩

theorem witness_FlagFrame : ∃ t, exec (.inrR .b) at0 = .next t := ⟨_, rfl⟩

theorem witness_ControlStateFrame :
    (∃ t, exec .nop at0 = .next t) ∧ Instr.nop ≠ .ei ∧ Instr.nop ≠ .di ∧ Instr.nop ≠ .hlt ∧ Instr.nop ≠ .sim ∧ Instr.nop ≠ .rim :=
  ⟨⟨_, rfl⟩, by decide⟩

theorem witness_DelayedEnableBookkeeping :
    (∃ t, exec .ei at0 = .next t) ∧ (∃ t, exec .di at0 = .next t) ∧
    (∃ t, exec .nop { at0 with eiPending := true } = .next t) ∧ Instr.nop ≠ .ei ∧ Instr.nop ≠ .di :=
  ⟨⟨_, rfl⟩, ⟨_, rfl⟩, ⟨_, rfl⟩, by decide⟩

theorem witness_InterruptsEnabledOnlyAfterEi :
    ∃ t, step { at0 with eiPending := true } = .next t ∧ at0.inte = false ∧ t.inte = true := ⟨_, rfl, rfl, rfl⟩

theorem witness_LatchAndMaskWriters :
    (∃ t, step { at0 with i75 := true } = .next t) ∧ ({ at0 with i75 := true } : State).boundaryInput.reset = none ∧
    first { at0 with i75 := true } 0x0100 ≠ 0x30 := ⟨⟨_, rfl⟩, rfl, by decide⟩

/-- One state for each of the five sources, with the default order, and a platform without TRAP. -/
theorem witness_InterruptPriority :
    at0.params.interrupts.priority = [.trap, .rst75, .rst65, .rst55, .intr] ∧
    ({ at0 with
        trapPending := true, inte := true
        params := { Params.standard with interrupts := { InterruptSet.standard with priority := [.intr] } } } : State).enabledRequest
      (lines (intr := true)) = some .intr ∧
    ({ at0 with trapPending := true } : State).enabledRequest .quiet = some .trap ∧
    ({ at0 with inte := true, i75 := true, m75 := false } : State).enabledRequest .quiet = some .rst75 ∧
    ({ at0 with inte := true, m65 := false } : State).enabledRequest (lines (rst65 := true)) = some .rst65 ∧
    ({ at0 with inte := true, m55 := false } : State).enabledRequest { BoundaryInput.quiet with rst55 := true } = some .rst55 ∧
    ({ at0 with inte := true } : State).enabledRequest (lines (intr := true)) = some .intr := by decide

/-- Both stacks that wrap: the high byte at 0xFFFF, and the two bytes on both sides of address 0. -/
theorem witness_InterruptEntry : StackInRam { at0 with sp := 0x0000 } ∧ StackInRam sp1 := ⟨⟨rfl, rfl⟩, rfl, rfl⟩

theorem witness_IntrEntry : StackInRam sp1 := ⟨rfl, rfl⟩

/-- Each clause: a level that is high, one that is low, an enabled request, none. -/
theorem witness_RecognitionAtBoundary :
    ({ at0 with inputs := [lines (trap := true)] } : State).boundaryInput = lines (trap := true) ∧
    (lines (trap := true)).trapLevel = true ∧
    (State.sampleLines { at0 with inputs := [lines (trap := true)] } (lines (trap := true))).enabledRequest (lines (trap := true)) =
      some .trap ∧
    at0.boundaryInput = .quiet ∧ BoundaryInput.quiet.trapLevel = false ∧ (at0.sampleLines .quiet).enabledRequest .quiet = none := by
  decide

theorem witness_HaltedStep :
    ({ at0 with halted := true } : State).boundaryInput.reset = none ∧
    (State.sampleLines { at0 with halted := true } .quiet).enabledRequest .quiet = none := by decide

theorem witness_FinalStateStaysFinal : State.final { at0 with halted := true } := ⟨rfl, rfl, rfl, rfl⟩

theorem witness_HandlerReturns :
    StackInRam sp1 ∧ ∃ t u : State, sp1.interruptEntry .trap (.rst 0) = .next t ∧ u.mem = t.mem ∧ u.memMap = t.memMap ∧ u.sp = t.sp :=
  ⟨⟨rfl, rfl⟩, _, _, rfl, rfl, rfl, rfl⟩

/-- A running machine and a halted one. -/
theorem witness_ResetProcedure :
    ({ at0 with inputs := [{ BoundaryInput.quiet with reset := some 0 }] } : State).boundaryInput.reset = some 0 ∧
    ({ at0 with halted := true, inputs := [{ BoundaryInput.quiet with reset := some 0 }] } : State).boundaryInput.reset = some 0 :=
  ⟨rfl, rfl⟩

theorem witness_ResetAbandonsInstruction :
    resetInCall.boundaryInput.reset = some 1 ∧ resetInCall.halted = false ∧ (Instr.call 0x3000).wellFormed = true ∧
    At resetInCall (.call 0x3000) ∧ WritesDefined resetInCall :=
  ⟨rfl, rfl, rfl, at_of_stands (by decide), fun a => by rw [default_map rfl a]; decide⟩

/-- The other clause: a count beyond the one write of STA. -/
theorem witness_ResetAbandonsInstruction_beyond :
    let s := { resetInCall with mem := [(0x0100, 0x32)], inputs := [{ BoundaryInput.quiet with reset := some 2 }] }
    s.boundaryInput.reset = some 2 ∧ (writesOf (.sta 0x0000) s).length < 2 ∧ At s (.sta 0x0000) :=
  ⟨rfl, by decide, at_of_stands (by decide)⟩

theorem witness_ResetAbandonsEntry :
    resetInEntry.halted = true ∧ resetInEntry.boundaryInput.reset = some 1 ∧ StackInRam resetInEntry ∧
    (resetInEntry.sampleLines resetInEntry.boundaryInput).enabledRequest resetInEntry.boundaryInput = some .trap ∧
    (nextState (step resetInEntry)).map (fun t => (t.pc, t.mem)) = some (0x0000, [(0x0000, 0x12)]) :=
  ⟨rfl, rfl, ⟨rfl, rfl⟩, by decide, by decide⟩

theorem witness_ReadAfterWrite : at0.isRam 0xFFFF ∧ at0.isRam 0x0000 := ⟨rfl, rfl⟩

theorem witness_CanonicalMemoryIsContent :
    Memory.wf [(0x0000, 0x12), (0xFFFF, 0x34)] = true ∧
    Memory.write (Memory.write [] 0xFFFF 0x34) 0x0000 0x12 = [(0x0000, 0x12), (0xFFFF, 0x34)] := by decide

/-- One map with every kind of region, at the two ends of a range. -/
theorem witness_MemoryMapRegions :
    let s := { at0 with
      memMap := [⟨0x0000, 0x0FFF, .rom true⟩, ⟨0x1000, 0x1FFF, .rom false⟩, ⟨0x2000, 0x2000, .device⟩, ⟨0xF000, 0xFFFF, .absent⟩] }
    at0.memMap = [] ∧ s.region 0x0000 = .rom true ∧ s.region 0x1FFF = .rom false ∧ s.region 0x2000 = .device ∧
    s.region 0x2001 = .ram ∧ s.region 0xFFFF = .absent := by decide

/-- HL, BC and DE at both ends of memory, and an SHLD whose second byte wraps. -/
theorem witness_StoresToMemory :
    let s := { at0 with regs := { at0.regs with b := 0x00, c := 0x00, d := 0xFF, e := 0xFF, h := 0xFF, l := 0xFF } }
    s.isRam (word s.regs.h s.regs.l) ∧ s.isRam (word s.regs.b s.regs.c) ∧ s.isRam (word s.regs.d s.regs.e) ∧
    s.isRam 0xFFFF ∧ s.isRam (0xFFFF + 1) := by decide

theorem witness_IncrementsAndDecrements : at0.isRam (word at0.regs.h at0.regs.l) := rfl

/-- 99 + 99 with a carry in. -/
theorem witness_DecimalAddition :
    let s := { at0 with regs := { at0.regs with a := 0x99, b := 0x99 }, flags := { at0.flags with cy := true } }
    IsBcd s.regs.a ∧ IsBcd (s.reg .b) ∧
    ∃ t u, exec (.adcR .b) s = .next t ∧ exec .daa t = .next u ∧ u.regs.a = 0x99 ∧ u.flags.cy = true :=
  ⟨⟨by decide, by decide⟩, ⟨by decide, by decide⟩, _, _, rfl, rfl, rfl, rfl⟩

/-- Calls with the condition true and false, and a stack that wraps. -/
theorem witness_Calls : at0.flags.z = false ∧ (!at0.flags.z) = true ∧ StackInRam sp1 ∧ StackInRam { at0 with sp := 0x0000 } :=
  ⟨rfl, rfl, ⟨rfl, rfl⟩, rfl, rfl⟩

theorem witness_Returns : (!sp1.flags.s) = true ∧ sp1.flags.s = false := ⟨rfl, rfl⟩

theorem witness_Restart : StackInRam sp1 := ⟨rfl, rfl⟩

theorem witness_Pushes : StackInRam sp1 ∧ StackInRam { at0 with sp := 0x0000 } := ⟨⟨rfl, rfl⟩, rfl, rfl⟩

theorem witness_PushPopPswRestores :
    StackInRam sp1 ∧ ∃ t u : State, exec .pushPsw sp1 = .next t ∧ u.mem = t.mem ∧ u.memMap = t.memMap ∧ u.sp = t.sp :=
  ⟨⟨rfl, rfl⟩, _, _, rfl, rfl, rfl, rfl⟩

theorem witness_ExchangeStackTop : TopInRam { at0 with sp := 0xFFFF } := ⟨rfl, rfl⟩

theorem witness_XthlTwiceRestores : State.Inv { sp1 with sp := 0xFFFF } ∧ TopInRam { sp1 with sp := 0xFFFF } :=
  ⟨by decide, rfl, rfl⟩

theorem witness_EnableAndDisable :
    Running { at0 with mem := [(0x0100, 0xFB)] } ∧ At { at0 with mem := [(0x0100, 0xFB)] } .ei ∧
    Running { at0 with mem := [(0x0100, 0xF3)] } ∧ At { at0 with mem := [(0x0100, 0xF3)] } .di :=
  ⟨⟨rfl, rfl⟩, at_of_stands (by decide), ⟨rfl, rfl⟩, at_of_stands (by decide)⟩

/-- An ordinary RIM, one right after EI, the first one after a TRAP. -/
theorem witness_ReadInterruptMask :
    (at0.eiPending = false ∧ at0.trapRim = false) ∧ ({ at0 with eiPending := true } : State).eiPending = true ∧
    ({ at0 with trapRim := true } : State).trapRim = true := ⟨⟨rfl, rfl⟩, rfl, rfl⟩

end Sys2Proof.Tests
end

section
/-! PROOFS. The decoder on encodings, the fetch of an encoded instruction, and the step at one (spec/00_scope.md R10). -/

namespace Sys2Proof

/-! ### The three instruction formats -/

/-- R90, R91: the bytes write the instruction in the format that their first byte announces. -/
inductive FormatOf : Instr → List Byte → Prop
  | one {b : Byte} {i : Instr} (h : firstByte b = .one i) : FormatOf i [b]
  | two {b : Byte} {f : Byte → Instr} (h : firstByte b = .two f) (v : Byte) : FormatOf (f v) [b, v]
  | three {b : Byte} {f : Word → Instr} (h : firstByte b = .three f) (w : Word) : FormatOf (f w) (enc16 b w)

/-- R95: the number of an RST stands in the middle field of its byte. -/
theorem firstByte_rst (n : BitVec 3) : firstByte (encDS 0b11 n 0b111) = .one (.rst n) := by
  have hx : (encDS 0b11 n 0b111).extractLsb' 6 2 = 0b11 := by revert n; decide
  have hd : (encDS 0b11 n 0b111).extractLsb' 3 3 = n := by revert n; decide
  have hs : (encDS 0b11 n 0b111).extractLsb' 0 3 = 0b111 := by revert n; decide
  simp only [firstByte, hx, hd, hs]
  rfl

/-- The encoder writes every well-formed instruction in a format that the first-byte map reads back (R91 to R99). -/
theorem formatOf_encode (i : Instr) (hi : i.wellFormed = true) : FormatOf i (encode i) := by
  cases i with
  | xchg | addM | adcM | subM | sbbM | inrM | dcrM | daa | anaM | xraM | oraM | cmpM
  | rlc | rrc | ral | rar | cma | cmc | stc | ret | rnz | rz | rnc | rc | rpo | rpe | rp | rm
  | pchl | pushPsw | popPsw | xthl | sphl | ei | di | hlt | nop | rim | sim => exact .one rfl
  | movRM r | movMR r | addR r | adcR r | subR r | sbbR r | inrR r | dcrR r | anaR r | xraR r | oraR r | cmpR r =>
    exact .one (by cases r <;> rfl)
  | movRR r1 r2 => exact .one (by cases r1 <;> cases r2 <;> rfl)
  | inx p | dcx p | dad p => exact .one (by cases p <;> rfl)
  | ldax p | stax p =>
    cases p with
    | b | d => exact .one rfl
    | h | sp => cases hi
  | push p | pop p =>
    cases p with
    | b | d | h => exact .one rfl
    | sp => cases hi
  | rst n => exact .one (firstByte_rst n)
  | mviR r v => exact .two (by cases r <;> rfl) v
  | mviM v | adi v | aci v | sui v | sbi v | ani v | xri v | ori v | cpi v | inPort v | outPort v => exact .two rfl v
  | lxi p w => exact .three (by cases p <;> rfl) w
  | lda w | sta w | lhld w | shld w | jmp w | jnz w | jz w | jnc w | jc w | jpo w | jpe w | jp w | jm w
  | call w | cnz w | cz w | cnc w | cc w | cpo w | cpe w | cp w | cm w => exact .three rfl w

/-- The decoder reads the instruction of a format and leaves the following bytes. -/
theorem FormatOf.decode_append {i : Instr} {bytes : List Byte} (h : FormatOf i bytes) (rest : List Byte) :
    decode (bytes ++ rest) = .instr i rest := by
  cases h with
  | one hb => simp [decode, hb]
  | two hb v => simp [decode, hb]
  | three hb w => simp [decode, enc16, hb]

/-- R91 to R96: decoding an encoding answers the instruction and the bytes after it. -/
theorem decode_encode_append (i : Instr) (rest : List Byte) (hi : i.wellFormed = true) :
    decode (encode i ++ rest) = .instr i rest := (formatOf_encode i hi).decode_append rest

theorem decode_encode (i : Instr) (hi : i.wellFormed = true) : decode (encode i) = .instr i [] := by
  simpa using decode_encode_append i [] hi

namespace Machine

open Claims

/-! ### Fetching -/

/-- A location of RAM or ROM answers its content, with no event (R78). -/
theorem State.load_of_readable {s : State} {a : Word} (h : Readable s a) : s.load a = (s.byteAt a, s) := by
  rcases h with hram | ⟨w, hrom⟩
  · exact State.load_ram hram
  · exact State.load_rom hrom

theorem State.fetchBytes_of_one {s : State} {b : Byte} {i : Instr} (hb : firstByte b = .one i) (h0 : s.load s.pc = (b, s)) :
    s.fetchBytes = ([b], s) := by
  have hlen : instrLength b = 1 := by simp only [instrLength, hb]
  simp only [State.fetchBytes, h0, hlen]

theorem State.fetchBytes_of_two {s : State} {b v : Byte} {f : Byte → Instr} (hb : firstByte b = .two f)
    (h0 : s.load s.pc = (b, s)) (h1 : s.load (s.pc + 1) = (v, s)) : s.fetchBytes = ([b, v], s) := by
  have hlen : instrLength b = 2 := by simp only [instrLength, hb]
  simp only [State.fetchBytes, h0, hlen, h1]

/-- Byte 3 keeps its place in the list whether or not it is read (R243, U14; log 15). -/
theorem State.fetchBytes_of_three {s : State} {b lo hi : Byte} {f : Word → Instr} (hb : firstByte b = .three f)
    (h0 : s.load s.pc = (b, s)) (h1 : s.load (s.pc + 1) = (lo, s)) (h2 : s.load (s.pc + 2) = (hi, s))
    (hcell : s.byteAt (s.pc + 2) = hi) : s.fetchBytes = ([b, lo, hi], s) := by
  have hlen : instrLength b = 3 := by simp only [instrLength, hb]
  simp only [State.fetchBytes, h0, hlen, h1, h2, hcell, ite_self]

/-- Where an instruction's encoding stands at PC, a fetch reads exactly its bytes and changes nothing (R10, R90). -/
theorem State.fetchBytes_of_at {s : State} {i : Instr} (hi : i.wellFormed = true) (hat : At s i) :
    s.fetchBytes = (encode i, s) := by
  have hload : ∀ k b, (encode i)[k]? = some b → s.load (s.pc + BitVec.ofNat 16 k) = (b, s) := fun k b hk => by
    obtain ⟨hread, hbyte⟩ := hat k b hk
    rw [State.load_of_readable hread, hbyte]
  have hcell : ∀ k b, (encode i)[k]? = some b → s.byteAt (s.pc + BitVec.ofNat 16 k) = b := fun k b hk => (hat k b hk).2
  have hpc : s.pc + BitVec.ofNat 16 0 = s.pc := BitVec.add_zero s.pc
  have hform := formatOf_encode i hi
  generalize encode i = bytes at hload hcell hform
  cases hform with
  | one hb => exact State.fetchBytes_of_one hb (hpc ▸ hload 0 _ rfl)
  | two hb v => exact State.fetchBytes_of_two hb (hpc ▸ hload 0 _ rfl) (hload 1 _ rfl)
  | three hb w =>
    exact State.fetchBytes_of_three hb (hpc ▸ hload 0 _ rfl) (hload 1 _ rfl) (hload 2 _ rfl) (hcell 2 _ rfl)

/-- Where an instruction's encoding stands at PC, fetch and decode answer it and change nothing, whatever ILLEGAL_OPCODE is. -/
theorem State.fetch_of_at {s : State} {i : Instr} (hi : i.wellFormed = true) (hat : At s i) : s.fetch = (.instr i [], s) := by
  simp only [State.fetch, State.fetchBytes_of_at hi hat, decode_encode i hi, resolveIllegal_instr]

/-! ### Running -/

/-- A step of a machine that is neither halted nor being reset is one instruction (R10). -/
theorem step_of_running {s : State} (h : Running s) : step s = s.runInstruction := by
  obtain ⟨hhalted, hreset⟩ := h
  simp [step, hreset, hhalted]

theorem State.runInstruction_of_fetch {s t : State} {i : Instr} {rest : List Byte} (h : s.fetch = (.instr i rest, t)) :
    s.runInstruction =
      andThen (exec i t) fun u => (u.endInstruction i s.eiPending).atBoundary (recognisesAfter i) := by
  simp only [State.runInstruction, h]

/-- Settles O6: the step runs what it fetches, and the fetch answers the instruction whose bytes stand at PC. -/
theorem stepRunsDecodedInstruction : Obligations.StepRunsDecodedInstruction := by
  intro i s hi hrun hat
  rw [step_of_running hrun, State.runInstruction_of_fetch (State.fetch_of_at hi hat)]

end Machine

end Sys2Proof
end

section
/-! PROOFS. What every instruction leaves unchanged, the delayed enable of EI, the state after reset and the final state
(spec/10_state.md). -/

namespace Sys2Proof.Machine

open Claims

/-! ### The frame of an instruction -/

/-- R40, R43 to R46: what an instruction does by itself to the control state, with nothing else changed. Only EI, DI, HLT, RIM (the
model's mark, log 6) and SIM do anything to it. -/
def controlAfter (s : State) : Instr → State
  | .ei => { s with eiPending := true }
  | .di => { s with inte := false, eiPending := false }
  | .hlt => { s with halted := true }
  | .rim => { s with trapRim := false }
  | .sim =>
    { s with
      m75 := if s.regs.a.getLsbD 3 then s.regs.a.getLsbD 2 else s.m75
      m65 := if s.regs.a.getLsbD 3 then s.regs.a.getLsbD 1 else s.m65
      m55 := if s.regs.a.getLsbD 3 then s.regs.a.getLsbD 0 else s.m55
      i75 := if s.regs.a.getLsbD 4 then false else s.i75
      sod := if s.regs.a.getLsbD 6 then s.regs.a.getLsbD 7 else s.sod }
  | _ => s

/-- The frame of an instruction that took the machine from `s` to `t`: where PC goes on (R27), which registers and flags may differ
(R20, R25, R36), and that outside the data of the program only the control state of `controlAfter` may. -/
structure InstrFrame (i : Instr) (s t : State) : Prop where
  pc : transfers s.flags i = false → t.pc = s.nextPc (encode i).length
  regs : ∀ r, r ∉ destinations i → t.reg r = s.reg r
  sp : writesSp i = false → t.sp = s.sp
  flags : (flagEffect i).Holds s.flags t.flags
  rest : t =
    { controlAfter s i with
      regs := t.regs, flags := t.flags, sp := t.sp, pc := t.pc, mem := t.mem, outputs := t.outputs, draws := t.draws }

/-- Setting one register keeps the others. -/
theorem State.setReg_reg_of_notMem (s : State) {q r : Reg} (v : Byte) (hr : r ∉ [q]) : (s.setReg q v).reg r = s.reg r :=
  State.setReg_reg_other s q r v fun h => hr (List.mem_singleton.2 h)

/-- Setting a pair keeps every register that is no half of it. -/
theorem State.setPair_reg_of_notMem (s : State) (p : Pair) {r : Reg} (v : Word) (hr : r ∉ pairRegs p) :
    (s.setPair p v).reg r = s.reg r := by
  cases p with
  | sp => rfl
  | b | d | h => cases r <;> simp_all [pairRegs, State.setPair, State.reg]

/-- Exchanging DE and HL keeps every register that is no half of either. -/
theorem State.exchange_reg_of_notMem (s : State) {r : Reg} {v w : Word} (hr : r ∉ [Reg.d, .e, .h, .l]) :
    ((s.setPair .h v).setPair .d w).reg r = s.reg r := by
  have hd : r ∉ pairRegs .d := fun h => hr (List.mem_append_left (pairRegs .h) h)
  have hh : r ∉ pairRegs .h := fun h => hr (List.mem_append_right (pairRegs .d) h)
  rw [State.setPair_reg_of_notMem _ .d w hd, State.setPair_reg_of_notMem s .h v hh]

/-- What one instruction does to PC, the registers, SP, the flags and the control state, said once, for every instruction and every
memory map. -/
theorem exec_frame {i : Instr} {s t : State} (h : exec i s = .next t) : InstrFrame i s t := by
  cases i with
  -- a register from registers, immediate data, a port or the interrupt lines
  | mviR | movRR | inrR | dcrR | cma | inPort | rim =>
    cases h
    exact ⟨fun _ => rfl, fun _ hr => s.setReg_reg_of_notMem _ hr, fun _ => rfl, rfl, rfl⟩
  | addR | adi | adcR | aci | subR | sui | sbbR | sbi | daa =>
    cases h
    exact ⟨fun _ => rfl, fun _ hr => s.setReg_reg_of_notMem _ hr, fun _ => rfl, trivial, rfl⟩
  | anaR | ani | xraR | xri | oraR | ori =>
    cases h
    exact ⟨fun _ => rfl, fun _ hr => s.setReg_reg_of_notMem _ hr, fun _ => rfl, ⟨rfl, rfl⟩, rfl⟩
  | rlc | rrc | ral | rar =>
    cases h
    exact ⟨fun _ => rfl, fun _ hr => s.setReg_reg_of_notMem _ hr, fun _ => rfl, ⟨rfl, rfl, rfl, rfl⟩, rfl⟩
  -- a register from memory
  | movRM =>
    obtain ⟨v, d, hload, -⟩ := s.load_shape s.hl
    cases h
    rw [hload]
    exact ⟨fun _ => rfl, fun _ hr => s.setReg_reg_of_notMem _ hr, fun _ => rfl, rfl, rfl⟩
  | lda a =>
    obtain ⟨v, d, hload, -⟩ := s.load_shape a
    cases h
    rw [hload]
    exact ⟨fun _ => rfl, fun _ hr => s.setReg_reg_of_notMem _ hr, fun _ => rfl, rfl, rfl⟩
  | ldax p =>
    obtain ⟨v, d, hload, -⟩ := s.load_shape (s.pair p)
    cases h
    rw [hload]
    exact ⟨fun _ => rfl, fun _ hr => s.setReg_reg_of_notMem _ hr, fun _ => rfl, rfl, rfl⟩
  | addM | adcM | subM | sbbM =>
    obtain ⟨v, d, hload, -⟩ := s.load_shape s.hl
    cases h
    rw [hload]
    exact ⟨fun _ => rfl, fun _ hr => s.setReg_reg_of_notMem _ hr, fun _ => rfl, trivial, rfl⟩
  | anaM | xraM | oraM =>
    obtain ⟨v, d, hload, -⟩ := s.load_shape s.hl
    cases h
    rw [hload]
    exact ⟨fun _ => rfl, fun _ hr => s.setReg_reg_of_notMem _ hr, fun _ => rfl, ⟨rfl, rfl⟩, rfl⟩
  -- flags and control only
  | cmpR | cpi =>
    cases h
    exact ⟨fun _ => rfl, fun _ _ => rfl, fun _ => rfl, trivial, rfl⟩
  | cmpM =>
    obtain ⟨v, d, hload, -⟩ := s.load_shape s.hl
    cases h
    rw [hload]
    exact ⟨fun _ => rfl, fun _ _ => rfl, fun _ => rfl, trivial, rfl⟩
  | cmc | stc =>
    cases h
    exact ⟨fun _ => rfl, fun _ _ => rfl, fun _ => rfl, ⟨rfl, rfl, rfl, rfl⟩, rfl⟩
  | outPort | ei | di | hlt | nop | sim =>
    cases h
    exact ⟨fun _ => rfl, fun _ _ => rfl, fun _ => rfl, rfl, rfl⟩
  -- register pairs and SP
  | lxi p | inx p | dcx p =>
    cases h
    cases p with
    | b | d | h => exact ⟨fun _ => rfl, fun _ hr => State.setPair_reg_of_notMem _ _ _ hr, fun _ => rfl, rfl, rfl⟩
    | sp => exact ⟨fun _ => rfl, fun _ _ => rfl, nofun, rfl, rfl⟩
  | dad =>
    cases h
    exact ⟨fun _ => rfl, fun _ hr => State.setPair_reg_of_notMem _ .h _ hr, fun _ => rfl, ⟨rfl, rfl, rfl, rfl⟩, rfl⟩
  | xchg =>
    cases h
    exact ⟨fun _ => rfl, fun _ hr => s.exchange_reg_of_notMem hr, fun _ => rfl, rfl, rfl⟩
  | lhld a =>
    obtain ⟨w, d, hload, -⟩ := s.loadWord_shape a
    cases h
    rw [hload]
    exact ⟨fun _ => rfl, fun _ hr => State.setPair_reg_of_notMem _ .h _ hr, fun _ => rfl, rfl, rfl⟩
  | sphl =>
    cases h
    exact ⟨fun _ => rfl, fun _ _ => rfl, nofun, rfl, rfl⟩
  -- stores
  | movMR | mviM | sta | stax =>
    obtain ⟨m, o, h, -, -⟩ := State.store_andThen_next h
    cases h
    exact ⟨fun _ => rfl, fun _ _ => rfl, fun _ => rfl, rfl, rfl⟩
  | shld =>
    obtain ⟨m, o, h, -, -⟩ := State.store_andThen_next h
    obtain ⟨m, o, h, -, -⟩ := State.store_andThen_next h
    cases h
    exact ⟨fun _ => rfl, fun _ _ => rfl, fun _ => rfl, rfl, rfl⟩
  | inrM | dcrM =>
    obtain ⟨v, d, hload, -⟩ := s.load_shape s.hl
    simp only [exec, execInrM, execDcrM, hload] at h
    obtain ⟨m, o, h, -, -⟩ := State.store_andThen_next h
    cases h
    exact ⟨fun _ => rfl, fun _ _ => rfl, fun _ => rfl, rfl, rfl⟩
  | xthl =>
    obtain ⟨w, d, hload, -⟩ := s.loadWord_shape s.sp
    simp only [exec, execXthl, hload] at h
    obtain ⟨m, o, h, -, -⟩ := State.store_andThen_next h
    obtain ⟨m, o, h, -, -⟩ := State.store_andThen_next h
    cases h
    exact ⟨fun _ => rfl, fun _ hr => State.setPair_reg_of_notMem _ .h _ hr, fun _ => rfl, rfl, rfl⟩
  -- pushes and pops
  | push | pushPsw =>
    obtain ⟨m, o, h, -, -⟩ := State.pushBytes_andThen_next h
    cases h
    exact ⟨fun _ => rfl, fun _ _ => rfl, nofun, rfl, rfl⟩
  | pop p =>
    obtain ⟨w, d, hpop, -⟩ := s.popWord_shape
    cases h
    rw [hpop]
    cases p <;> exact ⟨fun _ => rfl, fun _ hr => State.setPair_reg_of_notMem _ _ _ hr, nofun, rfl, rfl⟩
  | popPsw =>
    obtain ⟨w, d, hpop, -⟩ := s.popWord_shape
    cases h
    rw [hpop]
    exact ⟨fun _ => rfl, fun _ hr => s.setReg_reg_of_notMem _ hr, nofun, trivial, rfl⟩
  -- branches: PC is bound only where the condition is false
  | jmp | pchl =>
    cases h
    exact ⟨nofun, fun _ _ => rfl, fun _ => rfl, rfl, rfl⟩
  | jnz | jz | jnc | jc | jpo | jpe | jp | jm =>
    rcases State.jumpIf_next h with ⟨hc, rfl⟩ | ⟨-, rfl⟩
    · exact ⟨fun hf => (nomatch hc.symm.trans hf), fun _ _ => rfl, fun _ => rfl, rfl, rfl⟩
    · exact ⟨fun _ => rfl, fun _ _ => rfl, fun _ => rfl, rfl, rfl⟩
  | call | rst =>
    obtain ⟨m, o, rfl, -, -⟩ := State.callTo_shape h
    exact ⟨nofun, fun _ _ => rfl, nofun, rfl, rfl⟩
  | cnz | cz | cnc | cc | cpo | cpe | cp | cm =>
    rcases State.callIf_next h with ⟨hc, h⟩ | ⟨-, rfl⟩
    · obtain ⟨m, o, rfl, -, -⟩ := State.callTo_shape h
      exact ⟨fun hf => (nomatch hc.symm.trans hf), fun _ _ => rfl, nofun, rfl, rfl⟩
    · exact ⟨fun _ => rfl, fun _ _ => rfl, nofun, rfl, rfl⟩
  | ret =>
    obtain ⟨w, d, hret, -⟩ := s.returnFromStack_shape
    cases h
    rw [hret]
    exact ⟨nofun, fun _ _ => rfl, nofun, rfl, rfl⟩
  | rnz | rz | rnc | rc | rpo | rpe | rp | rm =>
    rcases State.returnIf_next h with ⟨hc, rfl⟩ | ⟨-, rfl⟩
    · obtain ⟨w, d, hret, -⟩ := s.returnFromStack_shape
      rw [hret]
      exact ⟨fun hf => (nomatch hc.symm.trans hf), fun _ _ => rfl, nofun, rfl, rfl⟩
    · exact ⟨fun _ => rfl, fun _ _ => rfl, nofun, rfl, rfl⟩

/-! ### The frame statements -/

/-- Settles O12: the frame's PC. -/
theorem pcAdvancesByLength : Obligations.PcAdvancesByLength :=
  fun _ _ _ h hstays => (exec_frame h).pc hstays

/-- Settles O15: the frame's registers and SP. -/
theorem registerFrame : Obligations.RegisterFrame :=
  fun _ _ _ h => ⟨(exec_frame h).regs, (exec_frame h).sp⟩

/-- Settles O16: the frame's flags. -/
theorem flagFrame : Obligations.FlagFrame :=
  fun _ _ _ h => (exec_frame h).flags

/-- Settles O17: each field of the control state has one or two writers among the arms of `controlAfter`. -/
theorem controlStateFrame : Obligations.ControlStateFrame := by
  intro i s t h
  rw [(exec_frame h).rest]
  unfold controlAfter
  split <;> simp

/-! ### The delayed enable (R42) -/

/-- R289: EI marks the delayed enable and keeps INTE. -/
theorem exec_ei_control {s t : State} (h : exec .ei s = .next t) : t.inte = s.inte ∧ t.eiPending = true := by
  cases h
  exact ⟨rfl, rfl⟩

/-- R290: DI clears both at once. -/
theorem exec_di_control {s t : State} (h : exec .di s = .next t) : t.inte = false ∧ t.eiPending = false := by
  cases h
  exact ⟨rfl, rfl⟩

/-- EI and DI have done their part themselves. -/
@[simp] theorem State.endInstruction_ei (s : State) (p : Bool) : s.endInstruction .ei p = s := rfl

@[simp] theorem State.endInstruction_di (s : State) (p : Bool) : s.endInstruction .di p = s := rfl

/-- After any other instruction a pending enable takes effect and is used up. -/
theorem State.endInstruction_other (s : State) {i : Instr} (hei : i ≠ .ei) (hdi : i ≠ .di) (p : Bool) :
    s.endInstruction i p = { s with inte := s.inte || p, eiPending := s.eiPending && !p } := by
  unfold State.endInstruction
  split
  · contradiction
  · contradiction
  · cases p <;> simp

/-- Settles O18: EI and DI by what they do themselves, the others by the bookkeeping of R42 on a control state they keep. -/
theorem delayedEnableBookkeeping : Obligations.DelayedEnableBookkeeping := by
  intro i s t h
  refine ⟨?_, ?_, fun hei hdi => ?_⟩
  · rintro rfl
    exact (exec_ei_control h).symm
  · rintro rfl
    exact exec_di_control h
  · obtain ⟨hinte, hpending⟩ := (controlStateFrame i s t h).1 hei hdi
    simp [State.endInstruction_other t hei hdi, hinte, hpending]

/-! ### Where INTE rises -/

/-- A reset in a step ends in the reset procedure, wherever it comes (R361). -/
theorem State.resetAtBoundary_next {s t : State} {recognise : Bool} {done : Nat}
    (h : s.resetAtBoundary recognise done = .next t) : ∃ u : State, t = u.applyReset := by
  obtain ⟨u, -, h⟩ := andThen_eq_next h
  exact ⟨u, (Host.Outcome.next.inj h).symm⟩

theorem State.resetDuring_next {s t : State} {done : Nat} (h : s.resetDuring done = .next t) : ∃ u : State, t = u.applyReset := by
  unfold State.resetDuring at h
  split at h
  · exact State.resetAtBoundary_next h
  · split at h
    · split at h
      · obtain ⟨u, -, h⟩ := andThen_eq_next h
        exact ⟨u, (Host.Outcome.next.inj h).symm⟩
      · obtain ⟨u, -, h⟩ := andThen_eq_next h
        exact State.resetAtBoundary_next h
    · exact ⟨_, (Host.Outcome.next.inj h).symm⟩

/-- A boundary never sets INTE: it keeps it, or an entry clears it (R328). -/
theorem State.atBoundary_inte {s t : State} {recognise : Bool} (h : s.atBoundary recognise = .next t) (hinte : t.inte = true) :
    s.inte = true := by
  rcases State.atBoundary_next h with rfl | ⟨source, -, -, hentry⟩
  · exact hinte
  · obtain ⟨m, o, rfl, -, -⟩ := State.interruptEntry_shape hentry
    cases hinte

/-- No instruction sets INTE at its own end except through a pending enable. -/
theorem endInstruction_inte_rises {i : Instr} {s t : State} (h : exec i s = .next t) (hbefore : s.inte = false)
    (hafter : (t.endInstruction i s.eiPending).inte = true) : s.eiPending = true := by
  obtain ⟨hei, hdi, hother⟩ := delayedEnableBookkeeping i s t h
  by_cases h1 : i = .ei
  · rw [(hei h1).2, hbefore] at hafter
    cases hafter
  by_cases h2 : i = .di
  · rw [(hdi h2).1] at hafter
    cases hafter
  · rwa [(hother h1 h2).1, hbefore, Bool.false_or] at hafter

/-- Settles O19: a reset and a boundary never set INTE, so what set it is the end of an instruction with the enable pending. -/
theorem interruptsEnabledOnlyAfterEi : Obligations.InterruptsEnabledOnlyAfterEi := by
  intro s t h hbefore hafter
  rcases step_next h with ⟨n, -, hreset⟩ | ⟨-, -, hboundary⟩ | ⟨hreset, hrun, i, rest, d, u, -, -, hexec, hboundary⟩
  · obtain ⟨u, rfl⟩ := State.resetDuring_next hreset
    cases hafter
  · cases hbefore.symm.trans (State.atBoundary_inte hboundary hafter)
  · exact ⟨endInstruction_inte_rises (s := { s with draws := d }) hexec hbefore (State.atBoundary_inte hboundary hafter), hrun, hreset⟩

/-! ### The first state and the last -/

/-- Settles O10: the values of R50 stand in the definition; under the empty map every address is RAM. -/
theorem resetState : Obligations.ResetState :=
  ⟨rfl, rfl, rfl, rfl, rfl, rfl, rfl, rfl, rfl, State.region_default rfl, Memory.wf_nil, rfl, rfl, rfl, fun _ _ => rfl⟩

/-- A queue that has run out is quiet (log 8). -/
theorem State.boundaryInput_of_nil {s : State} (h : s.inputs = []) : s.boundaryInput = .quiet := by
  simp [State.boundaryInput, h]

/-- Quiet lines change nothing where no TRAP request stands and the queue has run out. -/
theorem State.sampleLines_quiet {s : State} (hinputs : s.inputs = []) (htrap : s.trapPending = false) :
    s.sampleLines .quiet = s := by
  obtain ⟨⟩ := s
  subst hinputs htrap
  simp [State.sampleLines, BoundaryInput.quiet]

/-- With quiet lines only TRAP's request and an enabled RST 7.5 latch can ask for an entry (R323). -/
theorem State.enabledRequest_quiet {s : State} (htrap : s.trapPending = false) (h75 : (s.inte && s.i75 && !s.m75) = false) :
    s.enabledRequest .quiet = none := by
  refine State.enabledRequest_eq_none.2 fun source _ => ?_
  cases source with
  | trap => simp [State.requested, htrap]
  | rst75 => simp [State.requested, h75]
  | rst65 | rst55 | intr => simp [State.requested, BoundaryInput.quiet]

/-- A boundary with no enabled request only samples the lines. -/
theorem State.atBoundary_of_none {s : State} (recognise : Bool)
    (h : (s.sampleLines s.boundaryInput).enabledRequest s.boundaryInput = none) :
    s.atBoundary recognise = .next (s.sampleLines s.boundaryInput) := by
  simp only [State.atBoundary, h, ite_self]

/-- Settles O26: the step of a final state is a boundary with quiet lines and no request. -/
theorem finalStateStaysFinal : Obligations.FinalStateStaysFinal := by
  rintro s ⟨hhalted, hinputs, htrap, h75⟩
  have hquiet : s.boundaryInput = .quiet := State.boundaryInput_of_nil hinputs
  have hlines : s.sampleLines s.boundaryInput = s := by rw [hquiet, State.sampleLines_quiet hinputs htrap]
  have hnone : s.enabledRequest s.boundaryInput = none := by rw [hquiet, State.enabledRequest_quiet htrap h75]
  have hstep : step s = s.atBoundary true := by simp [step, hquiet, BoundaryInput.quiet, hhalted]
  rw [hstep, State.atBoundary_of_none true (by rwa [hlines]), hlines]

end Sys2Proof.Machine
end

section
/-! PROOFS. Memory as content, and what each kind of region does (spec/20_memory.md R60, R61, R78). -/

namespace Sys2Proof.Machine

/-! ### Canonical memories (R60) -/

/-- Below the lowest listed address every byte is unwritten. -/
theorem Memory.read_of_lt {m : Memory} {a : Nat} (h : ∀ c ∈ m, a < c.1) : m.read a = Config.unwrittenByte := by
  induction m with
  | nil => rfl
  | cons c m ih =>
    obtain ⟨x, w⟩ := c
    have hx : x ≠ a := (h (x, w) List.mem_cons_self).ne'
    simpa [Memory.read, hx] using ih fun c hc => h c (List.mem_cons_of_mem _ hc)

theorem Memory.read_cons_self (a : Nat) (v : Byte) (m : Memory) : Memory.read ((a, v) :: m) a = v := by
  simp [Memory.read]

theorem Memory.read_cons_other {a b : Nat} (v : Byte) (m : Memory) (h : a ≠ b) : Memory.read ((a, v) :: m) b = m.read b := by
  simp [Memory.read, h]

/-- The lowest cell of a canonical memory shows in the content of any memory that reads alike: nothing there starts higher. -/
theorem Memory.not_forall_lt_of_read_eq {a : Nat} {v : Byte} {m n : Memory} (hm : Memory.wf ((a, v) :: m) = true)
    (h : ∀ x < 65536, Memory.read ((a, v) :: m) x = n.read x) : ¬ ∀ c ∈ n, a < c.1 := by
  intro hlt
  obtain ⟨ha, hv, -, -⟩ := (Memory.wf_cons a v m).1 hm
  have hread := h a ha
  rw [Memory.read_cons_self, Memory.read_of_lt hlt] at hread
  exact hv hread

/-- Canonical memories that read alike list the same cells: the lowest cells agree, and so do the rests. -/
theorem Memory.eq_of_read_eq {m n : Memory} (hm : m.wf = true) (hn : n.wf = true) (h : ∀ x < 65536, m.read x = n.read x) :
    m = n := by
  induction m generalizing n with
  | nil =>
    cases n with
    | nil => rfl
    | cons d n => exact absurd (by simp) (Memory.not_forall_lt_of_read_eq hn fun x hx => (h x hx).symm)
  | cons c m ih =>
    cases n with
    | nil => exact absurd (by simp) (Memory.not_forall_lt_of_read_eq hm h)
    | cons d n =>
      obtain ⟨a, v⟩ := c
      obtain ⟨b, w⟩ := d
      obtain ⟨ha, -, hm_lt, hm_wf⟩ := (Memory.wf_cons a v m).1 hm
      obtain ⟨-, -, hn_lt, hn_wf⟩ := (Memory.wf_cons b w n).1 hn
      have hab : ¬ a < b := fun hlt => Memory.not_forall_lt_of_read_eq hm h
        (List.forall_mem_cons.2 ⟨hlt, fun c hc => hlt.trans (hn_lt c hc)⟩)
      have hba : ¬ b < a := fun hlt => Memory.not_forall_lt_of_read_eq hn (fun x hx => (h x hx).symm)
        (List.forall_mem_cons.2 ⟨hlt, fun c hc => hlt.trans (hm_lt c hc)⟩)
      obtain rfl : a = b := by omega
      have hv : v = w := by simpa only [Memory.read_cons_self] using h a ha
      have hrest : m = n := ih hm_wf hn_wf fun x hx => by
        by_cases hax : a = x
        · rw [← hax, Memory.read_of_lt hm_lt, Memory.read_of_lt hn_lt]
        · simpa only [Memory.read_cons_other _ _ hax] using h x hx
      rw [hv, hrest]

/-- Settles O32: every address below 65,536 is a word's. -/
theorem canonicalMemoryIsContent : Obligations.CanonicalMemoryIsContent := by
  intro m n hm hn h
  refine Memory.eq_of_read_eq hm hn fun x hx => ?_
  have hword := h (BitVec.ofNat 16 x)
  rwa [BitVec.toNat_ofNat, Nat.mod_eq_of_lt hx] at hword

/-! ### Regions (R61, R78) -/

/-- Settles O31: a store in RAM is a write of the memory as data. -/
theorem readAfterWrite : Obligations.ReadAfterWrite := by
  intro s a v hram
  refine ⟨s.mem.write a.toNat v, State.store_ram v hram, ?_, fun b hb => ?_⟩
  · have hafter : ({ s with mem := s.mem.write a.toNat v } : State).region a = .ram := hram
    rw [State.load_ram hafter, State.byteAt, Memory.read_write_self]
  · exact Memory.read_write_other _ _ _ _ fun h => hb (BitVec.eq_of_toNat_eq h)

theorem State.store_rom_ignored {s : State} {a : Word} (v : Byte) (h : s.region a = .rom true) : s.store a v = .next s := by
  simp [State.store, h]

theorem State.store_rom_undefined {s : State} {a : Word} (v : Byte) (h : s.region a = .rom false) :
    s.store a v = .refused (.romWrite a) := by
  simp [State.store, h]

theorem State.store_device {s : State} {a : Word} (v : Byte) (h : s.region a = .device) :
    s.store a v = .next { s with outputs := s.outputs ++ [.device a v] } := by
  simp [State.store, h]

theorem State.store_absent {s : State} {a : Word} (v : Byte) (h : s.region a = .absent) : s.store a v = .next s := by
  simp [State.store, h]

/-- Settles O33: a load and a store per kind of region. -/
theorem memoryMapRegions : Obligations.MemoryMapRegions := by
  intro s a v
  obtain ⟨x, d, hload, -⟩ := s.load_shape a
  exact ⟨fun h => State.region_default h a, State.load_ram, fun _ => State.load_rom, State.store_rom_ignored v,
    State.store_rom_undefined v, fun h => ⟨⟨x, d, hload⟩, State.store_device v h⟩,
    fun h => ⟨⟨x, d, hload⟩, State.store_absent v h⟩⟩

end Sys2Proof.Machine
end

section
/-! PROOFS. An instruction is the writes of R79 and then a rest that touches neither memory nor the trace (spec/20_memory.md R61, R69,
R78, R79), and draws the free values of its reads. -/

namespace Sys2Proof.Machine

open Claims

/-! ### Sequences -/

theorem andThen_assoc (r : Result) (f g : State → Result) :
    andThen (andThen r f) g = andThen r fun s => andThen (f s) g := by
  cases r <;> rfl

@[simp] theorem andThen_next_right (r : Result) : andThen r .next = r := by cases r <;> rfl

/-! ### Writes in order -/

@[simp] theorem State.busWrites_nil (s : State) : State.busWrites [] s = .next s := rfl

theorem State.busWrites_mem (a : Word) (v : Byte) (s : State) : State.busWrites [.mem a v] s = s.store a v :=
  andThen_next_right _

theorem State.busWrites_mem_mem (a b : Word) (v w : Byte) (s : State) :
    State.busWrites [.mem a v, .mem b w] s = andThen (s.store a v) fun s1 => s1.store b w :=
  congrArg (andThen (s.store a v)) (funext (State.busWrites_mem b w))

/-- One write changes at most memory, whose form it keeps, and the output trace, to which it adds. -/
theorem State.busWrite_shape {s t : State} {w : BusWrite} (h : s.busWrite w = .next t) :
    ∃ m o, t = { s with mem := m, outputs := o } ∧ s.outputs <+: o ∧ (s.mem.wf = true → m.wf = true) := by
  cases w with
  | mem a v => exact State.store_shape h
  | port p v =>
    cases h
    exact ⟨_, _, rfl, List.prefix_append _ _, id⟩

/-- All a sequence of writes can do when it answers next. -/
theorem State.busWrites_shape {ws : List BusWrite} {s t : State} (h : State.busWrites ws s = .next t) :
    ∃ m o, t = { s with mem := m, outputs := o } ∧ s.outputs <+: o ∧ (s.mem.wf = true → m.wf = true) := by
  induction ws generalizing s with
  | nil =>
    cases h
    exact ⟨_, _, rfl, List.prefix_refl _, id⟩
  | cons w ws ih =>
    obtain ⟨s1, h1, h⟩ := andThen_eq_next h
    obtain ⟨m1, o1, rfl, hout1, hwf1⟩ := State.busWrite_shape h1
    obtain ⟨m, o, rfl, hout, hwf⟩ := ih h
    exact ⟨m, o, rfl, hout1.trans hout, fun hw => hwf (hwf1 hw)⟩

/-- A write elsewhere, or to a port, keeps a byte (R61). -/
theorem State.busWrite_byteAt {s t : State} {w : BusWrite} {a : Word} (h : s.busWrite w = .next t) (ha : ∀ v, w ≠ .mem a v) :
    t.byteAt a = s.byteAt a := by
  cases w with
  | port p v =>
    cases h
    rfl
  | mem b v =>
    have hab : a.toNat ≠ b.toNat := fun hab => ha v (by rw [BitVec.eq_of_toNat_eq hab])
    rcases State.store_next h with ⟨-, rfl⟩ | ⟨-, rfl⟩ | ⟨-, rfl⟩
    · exact Memory.read_write_other _ _ _ _ hab
    · rfl
    · rfl

/-- Writes keep every byte at an address that none of them names (R61). -/
theorem State.busWrites_byteAt {ws : List BusWrite} {s t : State} {a : Word} (h : State.busWrites ws s = .next t)
    (ha : ∀ v, BusWrite.mem a v ∉ ws) : t.byteAt a = s.byteAt a := by
  induction ws generalizing s with
  | nil =>
    cases h
    rfl
  | cons w ws ih =>
    obtain ⟨s1, h1, h⟩ := andThen_eq_next h
    have hhead : ∀ v, w ≠ .mem a v := fun v hw => ha v (hw ▸ List.mem_cons_self)
    rw [ih h fun v hv => ha v (List.mem_cons_of_mem _ hv), State.busWrite_byteAt h1 hhead]

/-- The counter of free values plays no part in a store. -/
theorem State.store_draws_andThen (s : State) (d : Nat) (a : Word) (v : Byte) (f : State → Result) :
    andThen (({ s with draws := d } : State).store a v) f = andThen (s.store a v) fun u => f { u with draws := d } := by
  have hregion : ({ s with draws := d } : State).region a = s.region a := rfl
  unfold State.store
  rw [hregion]
  split <;> rfl

/-! ### The free values of a read (R78) -/

/-- The map alone says whether a read draws. -/
@[simp] theorem readDraw_of_draws (s : State) (d : Nat) (a : Word) : readDraw { s with draws := d } a = readDraw s a := rfl

/-- A read draws where nothing tells what is answered, and changes nothing else. -/
theorem State.load_snd (s : State) (a : Word) : (s.load a).2 = { s with draws := s.draws + readDraw s a } := by
  cases h : s.region a <;> simp [State.load, readDraw, h]

theorem State.loadWord_snd (s : State) (a : Word) :
    (s.loadWord a).2 = { s with draws := s.draws + readDraws s [a, a + 1] } := by
  simp [State.loadWord, State.load_snd, readDraws, Nat.add_assoc]

theorem State.load_draws (s : State) (a : Word) : (s.load a).2.draws = s.draws + readDraws s [a] := by
  rw [State.load_snd]
  rfl

theorem State.loadWord_draws (s : State) (a : Word) : (s.loadWord a).2.draws = s.draws + readDraws s [a, a + 1] := by
  rw [State.loadWord_snd]

theorem State.popWord_draws (s : State) : s.popWord.2.draws = s.draws + readDraws s [s.sp, s.sp + 1] :=
  s.loadWord_draws s.sp

theorem State.returnFromStack_draws (s : State) : s.returnFromStack.draws = s.draws + readDraws s [s.sp, s.sp + 1] :=
  s.popWord_draws

/-- The pair of R9 as halves is its number. -/
theorem wordOf_eq_word (hi lo : Byte) : wordOf hi lo = word hi lo := by
  apply BitVec.eq_of_toNat_eq
  have := hi.isLt
  have := lo.isLt
  rw [wordOf_toNat, word, BitVec.toNat_ofNat]
  omega

theorem State.hl_eq_word (s : State) : s.hl = word s.regs.h s.regs.l := wordOf_eq_word _ _

theorem State.load_hl_draws (s : State) : (s.load s.hl).2.draws = s.draws + readDraws s [word s.regs.h s.regs.l] := by
  rw [State.load_draws, State.hl_eq_word]

/-! ### Writes and then the rest -/

/-- The result is that of the writes, made in order from `s`, and then of a rest that leaves memory and trace to them; `n` free values
are drawn in all. -/
def WritesThen (s : State) (ws : List BusWrite) (n : Nat) (r : Result) : Prop :=
  ∃ c : State, c.draws = s.draws + n ∧
    r = andThen (State.busWrites ws s) fun u => .next { c with mem := u.mem, outputs := u.outputs }

/-- No write: the rest is all. -/
theorem WritesThen.of_next {s t : State} {n : Nat} (hmem : t.mem = s.mem) (houtputs : t.outputs = s.outputs)
    (hdraws : t.draws = s.draws + n) : WritesThen s [] n (.next t) :=
  ⟨t, hdraws, by rw [State.busWrites_nil, andThen_next, ← hmem, ← houtputs]⟩

/-- Since writes change only memory and trace, what follows them need be known only on such states. -/
theorem WritesThen.of_busWrites {s : State} {ws : List BusWrite} {n : Nat} {f : State → Result} (c : State)
    (hdraws : c.draws = s.draws + n)
    (hrest : ∀ m o, f { s with mem := m, outputs := o } = .next { c with mem := m, outputs := o }) :
    WritesThen s ws n (andThen (State.busWrites ws s) f) := by
  refine ⟨c, hdraws, ?_⟩
  cases h : State.busWrites ws s with
  | next u =>
    obtain ⟨m, o, rfl, -, -⟩ := State.busWrites_shape h
    exact hrest m o
  | fault e => cases e
  | refused e => rfl

theorem WritesThen.store {s : State} {a : Word} {v : Byte} {n : Nat} {f : State → Result} (c : State)
    (hdraws : c.draws = s.draws + n)
    (hrest : ∀ m o, f { s with mem := m, outputs := o } = .next { c with mem := m, outputs := o }) :
    WritesThen s [.mem a v] n (andThen (s.store a v) f) := by
  rw [← State.busWrites_mem]
  exact .of_busWrites c hdraws hrest

theorem WritesThen.store_store {s : State} {a b : Word} {v w : Byte} {n : Nat} {f : State → Result} (c : State)
    (hdraws : c.draws = s.draws + n)
    (hrest : ∀ m o, f { s with mem := m, outputs := o } = .next { c with mem := m, outputs := o }) :
    WritesThen s [.mem a v, .mem b w] n (andThen (s.store a v) fun s1 => andThen (s1.store b w) f) := by
  rw [← andThen_assoc, ← State.busWrites_mem_mem]
  exact .of_busWrites c hdraws hrest

/-- R64, R79: a push is its two writes and then the new SP. -/
theorem WritesThen.pushBytes {s : State} {hi lo : Byte} {n : Nat} {f : State → Result} (c : State)
    (hdraws : c.draws = s.draws + n)
    (hrest : ∀ m o, f { s with mem := m, outputs := o, sp := s.sp - 2 } = .next { c with mem := m, outputs := o }) :
    WritesThen s (pushWrites s hi lo) n (andThen (s.pushBytes hi lo) f) := by
  simp only [State.pushBytes, andThen_assoc, andThen_next]
  exact .store_store c hdraws hrest

theorem State.callTo_writesThen (s : State) (len : Nat) (target : Word) :
    WritesThen s (callWrites s len true) 0 (s.callTo len target) :=
  .pushBytes { s with sp := s.sp - 2, pc := target } rfl fun _ _ => rfl

/-- R253: a call that is not taken writes nothing. -/
theorem State.callIf_writesThen (s : State) (cond : Cond) (addr : Word) :
    WritesThen s (callWrites s 3 (s.flags.holds cond)) 0 (s.callIf cond addr) := by
  unfold State.callIf
  cases s.flags.holds cond with
  | true => exact s.callTo_writesThen 3 addr
  | false => exact .of_next rfl rfl rfl

theorem State.returnFromStack_writesThen (s : State) :
    WritesThen s [] (readDraws s [s.sp, s.sp + 1]) (.next s.returnFromStack) :=
  .of_next s.returnFromStack_mem s.returnFromStack_outputs s.returnFromStack_draws

/-- R263: a return that is not taken reads nothing. -/
theorem State.returnIf_writesThen (s : State) (cond : Cond) {n : Nat}
    (hn : n = readDraws s (if s.flags.holds cond then [s.sp, s.sp + 1] else [])) : WritesThen s [] n (s.returnIf cond) := by
  subst hn
  unfold State.returnIf
  cases s.flags.holds cond with
  | true => exact s.returnFromStack_writesThen
  | false => exact .of_next rfl rfl rfl

theorem State.jumpIf_writesThen (s : State) (cond : Cond) (addr : Word) : WritesThen s [] 0 (s.jumpIf cond addr) := by
  unfold State.jumpIf
  split <;> exact .of_next rfl rfl rfl

theorem add8_one_res (v : Byte) : (add8 v 1 false).res = v + 1 := by
  apply BitVec.eq_of_toNat_eq
  simp [add8]

theorem sub8_one_res (v : Byte) : (sub8 v 1 false).res = v - 1 := by simp [sub8]

/-- R176, R178: INR M and DCR M read and then write the byte at HL. -/
theorem State.modifyM_writesThen (s : State) (v : Byte) (fl : Flags) :
    WritesThen s [.mem s.hl v] (readDraws s [word s.regs.h s.regs.l])
      (andThen ((s.load s.hl).2.store s.hl v) fun s1 => .next { s1.advance 1 with flags := fl }) := by
  rw [State.load_snd, State.store_draws_andThen]
  refine .store { s.advance 1 with flags := fl, draws := s.draws + readDraw s s.hl } ?_ fun _ _ => rfl
  rw [State.hl_eq_word]
  rfl

/-- R285: XTHL reads two bytes of the stack and then writes both. -/
theorem execXthl_writesThen (s : State) :
    WritesThen s [.mem (s.sp + 1) s.regs.h, .mem s.sp s.regs.l] (readDraws s [s.sp, s.sp + 1]) (execXthl s) := by
  simp only [execXthl, State.loadWord_snd, State.store_draws_andThen]
  exact .store_store
    (({ s with draws := s.draws + readDraws s [s.sp, s.sp + 1] } : State).setPair .h (s.loadWord s.sp).1 |>.advance 1)
    rfl fun _ _ => rfl

/-- Every instruction is the writes of R79 and then a rest, and draws the free values of its reads and its own. -/
theorem exec_writesThen (i : Instr) (s : State) : WritesThen s (writesOf i s) (drawsOf i s) (exec i s) := by
  cases i with
  -- registers, flags and control: nothing read or written
  | mviR | movRR | xchg | addR | adi | adcR | aci | subR | sui | sbbR | sbi | inrR | dcrR | dad | daa
  | anaR | ani | xraR | xri | oraR | ori | cmpR | cpi | rlc | rrc | ral | rar | cma | cmc | stc
  | jmp | pchl | sphl | ei | di | hlt | nop | sim | inPort | rim => exact .of_next rfl rfl rfl
  | lxi | inx | dcx => exact .of_next (State.setPair_mem ..) (State.setPair_outputs ..) (State.setPair_draws ..)
  -- data reads
  | movRM | addM | adcM | subM | sbbM | anaM | xraM | oraM | cmpM =>
    exact .of_next (s.load_mem _) (s.load_outputs _) s.load_hl_draws
  | lda a => exact .of_next (s.load_mem _) (s.load_outputs _) (s.load_draws a)
  | ldax p => exact .of_next (s.load_mem _) (s.load_outputs _) (s.load_draws (s.pair p))
  | lhld a => exact .of_next (s.loadWord_mem _) (s.loadWord_outputs _) (s.loadWord_draws a)
  | pop p =>
    exact .of_next ((State.setPair_mem ..).trans s.popWord_mem) ((State.setPair_outputs ..).trans s.popWord_outputs)
      ((State.setPair_draws ..).trans s.popWord_draws)
  | popPsw => exact .of_next s.popWord_mem s.popWord_outputs s.popWord_draws
  -- stores
  | movMR | sta | stax => exact .store (s.advance _) rfl fun _ _ => rfl
  | mviM => exact .store (s.advance 2) rfl fun _ _ => rfl
  | shld => exact .store_store (s.advance 3) rfl fun _ _ => rfl
  | inrM =>
    have hwrites : writesOf .inrM s = [.mem s.hl (add8 (s.load s.hl).1 1 false).res] :=
      congrArg (fun v => [BusWrite.mem s.hl v]) (add8_one_res _).symm
    rw [hwrites]
    exact s.modifyM_writesThen _ _
  | dcrM =>
    have hwrites : writesOf .dcrM s = [.mem s.hl (sub8 (s.load s.hl).1 1 false).res] :=
      congrArg (fun v => [BusWrite.mem s.hl v]) (sub8_one_res _).symm
    rw [hwrites]
    exact s.modifyM_writesThen _ _
  | xthl => exact execXthl_writesThen s
  | outPort => exact .of_busWrites (f := fun u => .next (u.advance 2)) (s.advance 2) rfl fun _ _ => rfl
  -- stack and control transfers
  | push => exact .pushBytes { s.advance 1 with sp := s.sp - 2 } rfl fun _ _ => rfl
  | pushPsw => exact .pushBytes { s.advance 1 with sp := s.sp - 2, draws := s.draws + 1 } rfl fun _ _ => rfl
  | jnz | jz | jnc | jc | jpo | jpe | jp | jm => exact s.jumpIf_writesThen _ _
  | call | rst => exact s.callTo_writesThen _ _
  | cnz | cz | cnc | cc | cpo | cpe | cp | cm => exact s.callIf_writesThen _ _
  | ret => exact s.returnFromStack_writesThen
  | rnz | rz | rnc | rc | rpo | rpe | rp | rm => exact s.returnIf_writesThen _ rfl

/-! ### The write statements -/

/-- An instruction that answers next has made its writes, and ends with their memory and trace. -/
theorem exec_next_writes {i : Instr} {s t : State} (h : exec i s = .next t) :
    ∃ u, State.busWrites (writesOf i s) s = .next u ∧ u.mem = t.mem ∧ u.outputs = t.outputs := by
  obtain ⟨c, -, hexec⟩ := exec_writesThen i s
  obtain ⟨u, hu, hc⟩ := andThen_eq_next (hexec.symm.trans h)
  cases hc
  exact ⟨u, hu, rfl, rfl⟩

/-- An instruction draws what its reads and its own free values need. -/
theorem exec_next_draws {i : Instr} {s t : State} (h : exec i s = .next t) : t.draws = s.draws + drawsOf i s := by
  obtain ⟨c, hdraws, hexec⟩ := exec_writesThen i s
  obtain ⟨u, -, hc⟩ := andThen_eq_next (hexec.symm.trans h)
  cases hc
  exact hdraws

/-- The rest after the writes refuses nothing. -/
theorem exec_refused_iff (i : Instr) (s : State) (e : Refusal) :
    exec i s = .refused e ↔ State.busWrites (writesOf i s) s = .refused e := by
  obtain ⟨c, -, hexec⟩ := exec_writesThen i s
  rw [hexec]
  refine ⟨fun h => ?_, fun h => by rw [h, andThen_refused]⟩
  rcases andThen_eq_refused h with h | ⟨u, -, h⟩
  · exact h
  · cases h

/-- Settles O13: the instruction is its writes and a rest that neither writes nor refuses. -/
theorem writesInStatedOrder : Obligations.WritesInStatedOrder :=
  fun i s => ⟨fun _ => exec_next_writes, exec_refused_iff i s⟩

/-- Settles O14: the memory is that of the listed writes, none of which names the address. -/
theorem memoryFrame : Obligations.MemoryFrame := by
  intro i s t a h ha
  obtain ⟨u, hu, hmem, -⟩ := exec_next_writes h
  have hbyte : t.byteAt a = u.byteAt a := congrArg (·.read a.toNat) hmem.symm
  rw [hbyte, State.busWrites_byteAt hu ha]

end Sys2Proof.Machine
end

section
/-! PROOFS. What every step keeps: the parameters, the map, the form of memory, the past outputs and the order of the free values
(spec/20_memory.md R60, R61, R69, R78; spec/60_exceptions.md R328; spec/70_reset_and_hazards.md R361). -/

namespace Sys2Proof.Machine

open Claims

/-! ### What the parts of a step keep -/

/-- From `s` to `t` the platform's data and the environment's queue stay, the trace and the counter of free values only grow, and a
canonical memory stays canonical. -/
structure Carries (s t : State) : Prop where
  params : t.params = s.params
  memMap : t.memMap = s.memMap
  inputs : t.inputs = s.inputs
  outputs : s.outputs <+: t.outputs
  draws : s.draws ≤ t.draws
  wf : s.mem.wf = true → t.mem.wf = true

theorem Carries.refl (s : State) : Carries s s := ⟨rfl, rfl, rfl, List.prefix_refl _, Nat.le_refl _, id⟩

theorem Carries.trans {s t u : State} (h : Carries s t) (h' : Carries t u) : Carries s u where
  params := h'.params.trans h.params
  memMap := h'.memMap.trans h.memMap
  inputs := h'.inputs.trans h.inputs
  outputs := h.outputs.trans h'.outputs
  draws := h.draws.trans h'.draws
  wf hw := h'.wf (h.wf hw)

theorem Carries.of_draws {s : State} {d : Nat} (h : s.draws ≤ d) : Carries s { s with draws := d } :=
  { Carries.refl s with draws := h }

theorem State.busWrites_carries {ws : List BusWrite} {s t : State} (h : State.busWrites ws s = .next t) : Carries s t := by
  obtain ⟨m, o, rfl, houtputs, hwf⟩ := State.busWrites_shape h
  exact { Carries.refl s with outputs := houtputs, wf := hwf }

/-- An instruction carries: its memory and trace are those of its writes. -/
theorem exec_carries {i : Instr} {s t : State} (h : exec i s = .next t) : Carries s t := by
  obtain ⟨u, hu, hmem, houtputs⟩ := exec_next_writes h
  have hwrites := State.busWrites_carries hu
  obtain ⟨-, -, -, -, -, hinputs, hmemMap, hparams⟩ := controlStateFrame i s t h
  exact
    { params := hparams
      memMap := hmemMap
      inputs := hinputs
      outputs := houtputs ▸ hwrites.outputs
      draws := exec_next_draws h ▸ Nat.le_add_right _ _
      wf := hmem ▸ hwrites.wf }

theorem State.endInstruction_carries (s : State) (i : Instr) (p : Bool) : Carries s (s.endInstruction i p) :=
  ⟨by simp, by simp, by simp, by simp, by simp, by simp⟩

theorem State.fetch_carries (s : State) : Carries s s.fetch.2 := by
  obtain ⟨d, hfetch, hle⟩ := s.fetch_shape
  rw [hfetch]
  exact .of_draws hle

/-! ### Boundaries and resets use up one entry of the queue -/

/-- The state whose environment has gone on by one entry. -/
def State.nextInput (s : State) : State := { s with inputs := s.inputs.tail }

theorem Carries.nextInput {s t : State} (h : Carries s t) : Carries s.nextInput t.nextInput :=
  ⟨h.params, h.memMap, congrArg List.tail h.inputs, h.outputs, h.draws, h.wf⟩

theorem State.sampleLines_carries (s : State) (inp : BoundaryInput) : Carries s.nextInput (s.sampleLines inp) :=
  ⟨rfl, rfl, rfl, List.prefix_refl _, Nat.le_refl _, id⟩

/-- An interrupt entry pushes PC and draws nothing (R328). -/
theorem State.interruptEntry_carries {s t : State} {source : IntSource} {supplied : SuppliedInstr}
    (h : s.interruptEntry source supplied = .next t) : Carries s t ∧ t.draws = s.draws := by
  obtain ⟨m, o, rfl, houtputs, hwf⟩ := State.interruptEntry_shape h
  exact ⟨⟨rfl, rfl, rfl, houtputs, Nat.le_refl _, hwf⟩, rfl⟩

theorem State.atBoundary_carries {s t : State} {recognise : Bool} (h : s.atBoundary recognise = .next t) :
    Carries s.nextInput t ∧ t.draws = s.draws := by
  have hlines := s.sampleLines_carries s.boundaryInput
  rcases State.atBoundary_next h with rfl | ⟨source, -, -, hentry⟩
  · exact ⟨hlines, rfl⟩
  · obtain ⟨hcarries, hdraws⟩ := State.interruptEntry_carries hentry
    exact ⟨hlines.trans hcarries, hdraws⟩

/-- A reset keeps memory and draws new registers, flags and SP (R361). -/
theorem State.applyReset_carries (s : State) : Carries s.nextInput s.applyReset :=
  ⟨rfl, rfl, rfl, List.prefix_refl _, Nat.le_succ _, id⟩

theorem State.resetAtBoundary_carries {s t : State} {recognise : Bool} {done : Nat}
    (h : s.resetAtBoundary recognise done = .next t) : ∃ u : State, Carries s u ∧ t = u.applyReset := by
  obtain ⟨u, hu, h⟩ := andThen_eq_next h
  exact ⟨u, State.busWrites_carries hu, (Host.Outcome.next.inj h).symm⟩

/-- A reset in a step comes after some of the step's writes, or after its instruction and some of the entry's (R361; log 13). -/
theorem State.resetDuring_carries {s t : State} {done : Nat} (h : s.resetDuring done = .next t) :
    ∃ u : State, Carries s u ∧ t = u.applyReset := by
  have hfetch := s.fetch_carries
  unfold State.resetDuring at h
  split at h
  · exact State.resetAtBoundary_carries h
  · split at h
    · rename_i i rest s1 hs1
      rw [hs1] at hfetch
      split at h
      · obtain ⟨u, hu, h⟩ := andThen_eq_next h
        exact ⟨u, hfetch.trans (State.busWrites_carries hu), (Host.Outcome.next.inj h).symm⟩
      · obtain ⟨u, hu, h⟩ := andThen_eq_next h
        obtain ⟨v, hv, rfl⟩ := State.resetAtBoundary_carries h
        exact ⟨v, ((hfetch.trans (exec_carries hu)).trans (u.endInstruction_carries i _)).trans hv, rfl⟩
    · rename_i why s1 hs1
      rw [hs1] at hfetch
      exact ⟨s1, hfetch, (Host.Outcome.next.inj h).symm⟩

/-! ### The step -/

/-- Every step carries, and uses up one entry of the queue. -/
theorem step_carries {s t : State} (h : step s = .next t) : Carries s.nextInput t := by
  rcases step_next h with ⟨n, -, hreset⟩ | ⟨-, -, hboundary⟩ | ⟨-, -, i, rest, d, u, -, hd, hexec, hboundary⟩
  · obtain ⟨u, hu, rfl⟩ := State.resetDuring_carries hreset
    exact hu.nextInput.trans u.applyReset_carries
  · exact (State.atBoundary_carries hboundary).1
  · have hinstr : Carries s (u.endInstruction i s.eiPending) :=
      ((Carries.of_draws hd).trans (exec_carries hexec)).trans (u.endInstruction_carries i _)
    exact hinstr.nextInput.trans (State.atBoundary_carries hboundary).1

/-- Settles O9: the canonical form is among what every step carries. -/
theorem stepKeepsMemoryCanonical : Obligations.StepKeepsMemoryCanonical :=
  fun _ _ hwf h => (step_carries h).wf hwf

/-! ### The free values of a step -/

/-- R90: the lists of first bytes are those of the lengths 2 and 3. -/
theorem instrLength_eq_three (b : Byte) : instrLength b = 3 ↔ b ∈ threeByteOpcodes := by
  revert b
  decide

theorem instrLength_eq_two (b : Byte) : instrLength b = 2 ↔ b ∈ twoByteOpcodes := by
  revert b
  decide

/-- A fetch draws the free values of the bytes it reads; byte 3 of a branch not taken is not read (R243; log 15). -/
theorem State.fetchBytes_snd (s : State) : s.fetchBytes.2 = { s with draws := s.draws + readDraws s (fetchReads s) } := by
  simp only [State.fetchBytes]
  split
  · rename_i hlen
    have htwo : first s s.pc ∈ twoByteOpcodes := (instrLength_eq_two _).1 hlen
    have hthree : first s s.pc ∉ threeByteOpcodes := fun h => nomatch hlen.symm.trans ((instrLength_eq_three _).2 h)
    have hreads : fetchReads s = [s.pc, s.pc + 1] := by simp [fetchReads, htwo, hthree]
    simp [hreads, State.load_snd, readDraws, Nat.add_assoc]
  · rename_i hlen
    have hthree : first s s.pc ∈ threeByteOpcodes := (instrLength_eq_three _).1 hlen
    split
    · rename_i h
      have hskip : skipsByte3 (first s s.pc) s.flags = true := h
      have hreads : fetchReads s = [s.pc, s.pc + 1] := by simp [fetchReads, hthree, hskip]
      simp [hreads, State.load_snd, readDraws, Nat.add_assoc]
    · rename_i h
      have hread : skipsByte3 (first s s.pc) s.flags = false := Bool.eq_false_iff.2 h
      have hreads : fetchReads s = [s.pc, s.pc + 1, s.pc + 2] := by simp [fetchReads, hthree, hread]
      simp [hreads, State.load_snd, readDraws, Nat.add_assoc]
  · rename_i hnot2 hnot3
    have htwo : first s s.pc ∉ twoByteOpcodes := fun h => hnot2 ((instrLength_eq_two _).2 h)
    have hthree : first s s.pc ∉ threeByteOpcodes := fun h => hnot3 ((instrLength_eq_three _).2 h)
    have hreads : fetchReads s = [s.pc] := by simp [fetchReads, htwo, hthree]
    simp [hreads, State.load_snd, readDraws]

/-- The counter itself decides nothing of what an instruction draws. -/
theorem drawsOf_of_draws (i : Instr) (s : State) (d : Nat) : drawsOf i { s with draws := d } = drawsOf i s := by
  cases i <;> rfl

/-- R361: a reset draws registers, flags and SP. -/
theorem State.resetDuring_draws {s t : State} {done : Nat} (h : s.resetDuring done = .next t) : s.draws < t.draws := by
  obtain ⟨u, hu, rfl⟩ := State.resetDuring_carries h
  exact Nat.lt_succ_of_le hu.draws

/-- A running step draws in its fetch and in its instruction, and nowhere else. -/
theorem State.runInstruction_draws {s t : State} {i : Instr} {rest : List Byte} (hfetch : s.fetch.1 = .instr i rest)
    (h : s.runInstruction = .next t) : t.draws = s.draws + readDraws s (fetchReads s) + drawsOf i s := by
  have hpair : s.fetch = (.instr i rest, { s with draws := s.draws + readDraws s (fetchReads s) }) :=
    Prod.ext hfetch s.fetchBytes_snd
  rw [State.runInstruction_of_fetch hpair] at h
  obtain ⟨u, hexec, hboundary⟩ := andThen_eq_next h
  rw [(State.atBoundary_carries hboundary).2, State.endInstruction_draws, exec_next_draws hexec, drawsOf_of_draws]

/-- Settles O11: the platform's data and the queue from what every step carries, the counter from the draws of each kind of step. -/
theorem stepKeepsPlatformBookkeeping : Obligations.StepKeepsPlatformBookkeeping := by
  refine ⟨fun s t h => ?_, fun _ _ _ => exec_next_draws, State.load_snd⟩
  obtain ⟨hparams, hmemMap, hinputs, houtputs, hdraws, -⟩ := step_carries h
  refine ⟨hparams, hmemMap, houtputs, hinputs, hdraws, fun hreset => ?_, fun hreset hhalted => ?_, fun i rest hrun hfetch => ?_⟩
  · obtain ⟨done, hdone⟩ := Option.ne_none_iff_exists'.1 hreset
    exact State.resetDuring_draws (done := done) (by simpa only [step, hdone] using h)
  · exact (State.atBoundary_carries (by simpa only [step, hreset, hhalted, if_true] using h)).2
  · exact State.runInstruction_draws hfetch (step_of_running hrun ▸ h)

end Sys2Proof.Machine
end

section
/-! PROOFS. The decoder answers encodings only, and byte 1 alone decides the length and the refusal (spec/30_encoding.md). -/

namespace Sys2Proof

open Claims

/-! ### Field codes -/

/-- What holds of each of the eight field codes holds of all: one argument for each row of a table. -/
theorem forall_code {P : BitVec 3 → Prop} (row0 : P 0) (row1 : P 1) (row2 : P 2) (row3 : P 3) (row4 : P 4) (row5 : P 5)
    (row6 : P 6) (row7 : P 7) : ∀ c, P c := fun c => by
  have hc : c = 0 ∨ c = 1 ∨ c = 2 ∨ c = 3 ∨ c = 4 ∨ c = 5 ∨ c = 6 ∨ c = 7 := by revert c; decide
  rcases hc with rfl | rfl | rfl | rfl | rfl | rfl | rfl | rfl <;> assumption

/-- R92: a register is read only from its own code. -/
theorem regCode_of_regOfCode {c : BitVec 3} {r : Reg} (h : regOfCode c = some r) : regCode r = c :=
  (by decide : ∀ c, ∀ r ∈ regOfCode c, regCode r = c) c r h

/-- R92: the only code of no register is that of M. -/
theorem code_of_regOfCode_none {c : BitVec 3} (h : regOfCode c = none) : c = 0b110 := by
  revert c
  decide

/-- R98: a first byte is its three fields. -/
theorem encDS_fields (b : Byte) : encDS (b.extractLsb' 6 2) (b.extractLsb' 3 3) (b.extractLsb' 0 3) = b := by
  revert b
  decide

/-! ### The first-byte map inverts the encoder -/

/-- What a first byte announces is well-formed, and the encoder writes it with that first byte and its operand bytes. -/
def FirstByte.EncodesAs (b : Byte) : FirstByte → Prop
  | .unassigned => True
  | .one i => i.wellFormed = true ∧ encode i = [b]
  | .two f => ∀ v, (f v).wellFormed = true ∧ encode (f v) = [b, v]
  | .three f => ∀ w, (f w).wellFormed = true ∧ encode (f w) = enc16 b w

/-! R99, one lemma for each value of `x`. A row of its table is a value of `s` and an entry in a row a value of `d`; the entries written
`trivial` select no instruction. -/

theorem firstByte00_encodesAs : ∀ s d : BitVec 3, (firstByte00 d s).EncodesAs (encDS 0b00 d s) := by
  apply forall_code
  case row0 => refine forall_code ?_ trivial trivial trivial ?_ trivial ?_ trivial <;> exact ⟨rfl, rfl⟩
  case row1 =>
    refine forall_code ?_ ⟨rfl, rfl⟩ ?_ ⟨rfl, rfl⟩ ?_ ⟨rfl, rfl⟩ ?_ ⟨rfl, rfl⟩ <;> exact fun _ => ⟨rfl, rfl⟩
  case row2 =>
    refine forall_code ⟨rfl, rfl⟩ ⟨rfl, rfl⟩ ⟨rfl, rfl⟩ ⟨rfl, rfl⟩ ?_ ?_ ?_ ?_ <;> exact fun _ => ⟨rfl, rfl⟩
  case row3 | row4 | row5 | row7 => apply forall_code <;> exact ⟨rfl, rfl⟩
  case row6 => apply forall_code <;> exact fun _ => ⟨rfl, rfl⟩

theorem firstByte01_encodesAs (s d : BitVec 3) : (firstByte01 d s).EncodesAs (encDS 0b01 d s) := by
  unfold firstByte01
  split
  next hd hs => exact ⟨rfl, by rw [encode, regCode_of_regOfCode hd, regCode_of_regOfCode hs]⟩
  next hd hs => exact ⟨rfl, by rw [encode, regCode_of_regOfCode hd, code_of_regOfCode_none hs]⟩
  next hd hs => exact ⟨rfl, by rw [encode, code_of_regOfCode_none hd, regCode_of_regOfCode hs]⟩
  next hd hs => exact ⟨rfl, by rw [code_of_regOfCode_none hd, code_of_regOfCode_none hs]; rfl⟩

theorem firstByte10_encodesAs (s d : BitVec 3) : (firstByte10 d s).EncodesAs (encDS 0b10 d s) := by
  unfold firstByte10
  split
  · rename_i r hs
    obtain rfl := regCode_of_regOfCode hs
    revert d
    apply forall_code <;> exact ⟨rfl, rfl⟩
  · rename_i hs
    obtain rfl := code_of_regOfCode_none hs
    revert d
    apply forall_code <;> exact ⟨rfl, rfl⟩

theorem firstByte11_encodesAs : ∀ s d : BitVec 3, (firstByte11 d s).EncodesAs (encDS 0b11 d s) := by
  apply forall_code
  case row0 => apply forall_code <;> exact ⟨rfl, rfl⟩
  case row1 => refine forall_code ?_ ?_ ?_ trivial ?_ ?_ ?_ ?_ <;> exact ⟨rfl, rfl⟩
  case row2 | row4 | row6 => apply forall_code <;> exact fun _ => ⟨rfl, rfl⟩
  case row3 =>
    refine forall_code (fun _ => ⟨rfl, rfl⟩) trivial (fun _ => ⟨rfl, rfl⟩) (fun _ => ⟨rfl, rfl⟩) ?_ ?_ ?_ ?_ <;> exact ⟨rfl, rfl⟩
  case row5 =>
    refine forall_code ?_ (fun _ => ⟨rfl, rfl⟩) ?_ trivial ?_ trivial ?_ trivial <;> exact ⟨rfl, rfl⟩
  case row7 => exact fun _ => ⟨rfl, rfl⟩

/-- R99: the first-byte map takes a byte apart by its fields, and the encoder puts it together again. -/
theorem firstByte_encodesAs {b : Byte} {announced : FirstByte} (h : firstByte b = announced) : announced.EncodesAs b := by
  subst h
  have hfields := encDS_fields b
  simp only [firstByte]
  generalize b.extractLsb' 6 2 = x at hfields
  generalize b.extractLsb' 3 3 = d at hfields
  generalize b.extractLsb' 0 3 = s at hfields
  subst hfields
  have hx : x = 0b00 ∨ x = 0b01 ∨ x = 0b10 ∨ x = 0b11 := by
    revert x
    decide
  rcases hx with rfl | rfl | rfl | rfl
  · exact firstByte00_encodesAs s d
  · exact firstByte01_encodesAs s d
  · exact firstByte10_encodesAs s d
  · exact firstByte11_encodesAs s d

/-! ### What the decoder answers -/

/-- R91: bytes in an instruction's format are its encoding. -/
theorem FormatOf.eq_encode {i : Instr} {bytes : List Byte} (h : FormatOf i bytes) : i.wellFormed = true ∧ encode i = bytes := by
  cases h with
  | one hb => exact firstByte_encodesAs hb
  | two hb v => exact firstByte_encodesAs hb v
  | three hb w => exact firstByte_encodesAs hb w

/-- All that the decoder answers: an instruction of one of the three formats, and the bytes after it. -/
theorem decode_eq_instr {bytes rest : List Byte} {i : Instr} (h : decode bytes = .instr i rest) :
    ∃ front, FormatOf i front ∧ bytes = front ++ rest := by
  unfold decode at h
  split at h
  next => cases h
  next b1 tail =>
    split at h
    next => cases h
    next hb =>
      cases h
      exact ⟨[b1], .one hb, rfl⟩
    next b2 _ hb =>
      cases h
      exact ⟨[b1, b2], .two hb b2, rfl⟩
    next b2 b3 _ hb =>
      cases h
      exact ⟨enc16 b1 (wordOf b3 b2), .three hb _, by simp [enc16]⟩
    next => cases h
    next => cases h

/-- Settles O1: the encoder writes one of the three formats, and the decoder reads each of them back. -/
theorem decodeOfEncode : Obligations.DecodeOfEncode := decode_encode_append

/-- Settles O2: what the decoder answers stands in its format, and that format is its encoding. -/
theorem decodeAnswersOnlyEncodings : Obligations.DecodeAnswersOnlyEncodings := by
  intro bytes rest i h
  obtain ⟨front, hformat, rfl⟩ := decode_eq_instr h
  obtain ⟨hwf, rfl⟩ := hformat.eq_encode
  exact ⟨hwf, rfl⟩

/-- Settles O4: each of the strings is an encoding, with two bytes after it in the last table word. -/
theorem sampleWordsDecode : Obligations.SampleWordsDecode :=
  ⟨decode_encode (.movRR .a .b) rfl, decode_encode (.mviR .a 0x42) rfl, decode_encode (.lxi .h 0x2050) rfl,
    decode_encode (.adcR .c) rfl, decode_encode (.dad .sp) rfl, decode_encode (.cmpR .e) rfl, decode_encode (.rst 5) rfl,
    decode_encode .popPsw rfl, decode_encode .hlt rfl, congrArg Decoded.toOption (decode_encode (.call 0x3000) rfl),
    congrArg Decoded.toOption (decode_encode_append .hlt [0, 0] rfl)⟩

/-! ### The length that byte 1 determines -/

theorem instrLength_le_three (b : Byte) : instrLength b ≤ 3 := by
  unfold instrLength
  split <;> decide

/-- R100: the ten values are the first bytes of no length. -/
theorem instrLength_eq_zero (b : Byte) : instrLength b = 0 ↔ b ∈ unassignedBytes := by
  revert b
  decide

/-- Of three bytes, as many as byte 1 asks for stand in the format of an instruction, where byte 1 selects one. -/
theorem exists_formatOf_take {b1 : Byte} (b2 b3 : Byte) (h : instrLength b1 ≠ 0) :
    ∃ i, FormatOf i ([b1, b2, b3].take (instrLength b1)) := by
  cases hb : firstByte b1 with
  | unassigned => exact absurd (by simp only [instrLength, hb]) h
  | one i => exact ⟨i, by simpa [instrLength, hb] using FormatOf.one hb⟩
  | two f => exact ⟨f b2, by simpa [instrLength, hb] using FormatOf.two hb b2⟩
  | three f => exact ⟨f (wordOf b3 b2), by simpa [instrLength, hb, enc16] using FormatOf.three hb (wordOf b3 b2)⟩

/-- The decoder reads that instruction, of that length, and leaves the bytes beyond it. -/
theorem decode_three_bytes {b1 : Byte} {n : Nat} (b2 b3 : Byte) (hlen : instrLength b1 = n) (hn : n ≠ 0) :
    ∃ i, decode [b1, b2, b3] = .instr i ([b1, b2, b3].drop n) ∧ (encode i).length = n := by
  subst hlen
  obtain ⟨i, hformat⟩ := exists_formatOf_take b2 b3 hn
  obtain ⟨-, hencode⟩ := hformat.eq_encode
  refine ⟨i, ?_, ?_⟩
  · simpa only [List.take_append_drop] using hformat.decode_append ([b1, b2, b3].drop (instrLength b1))
  · rw [hencode, List.length_take_of_le (instrLength_le_three b1)]

/-- Settles O3: the lists are the first bytes of length 3, 2 and 0, and the decoder reads as many bytes as the length. -/
theorem lengthByFirstByte : Obligations.LengthByFirstByte := by
  intro b1 b2 b3
  rw [← Machine.instrLength_eq_three, ← Machine.instrLength_eq_two, ← instrLength_eq_zero]
  refine ⟨fun h3 => decode_three_bytes b2 b3 h3 three_ne_zero, fun h2 => decode_three_bytes b2 b3 h2 two_ne_zero,
    fun h3 h2 h0 => decode_three_bytes b2 b3 (n := 1) ?_ one_ne_zero⟩
  have hle := instrLength_le_three b1
  omega

/-! ### The ten first bytes that select no instruction -/

theorem firstByte_eq_unassigned (b : Byte) : firstByte b = .unassigned ↔ b ∈ unassignedBytes := by
  rw [← instrLength_eq_zero]
  cases hb : firstByte b <;> simp [instrLength, hb]

/-- R100: a byte string is rejected by its first byte exactly where that byte selects no instruction. -/
theorem decode_eq_unassigned_iff (b : Byte) (rest : List Byte) :
    decode (b :: rest) = .rejected (.unassigned b) ↔ b ∈ unassignedBytes := by
  rw [← firstByte_eq_unassigned]
  refine ⟨fun h => ?_, fun h => by simp only [decode, h]⟩
  cases hb : firstByte b with
  | unassigned => rfl
  | one i => simp [decode, hb] at h
  | two f => cases rest <;> simp [decode, hb] at h
  | three f => rcases rest with _ | ⟨_, _ | _⟩ <;> simp [decode, hb] at h

namespace Machine

/-- A fetch reads nothing after a byte that selects no instruction, and answers what ILLEGAL_OPCODE makes of its rejection (D3). -/
theorem State.fetch_of_unassigned {s : State} (h : first s s.pc ∈ unassignedBytes) :
    s.fetch =
      (resolveIllegal s.params.illegalOpcode (.rejected (.unassigned (first s s.pc))),
        { s with draws := s.draws + readDraw s s.pc }) := by
  have hlen : instrLength (s.load s.pc).1 = 0 := (instrLength_eq_zero _).2 h
  have hbytes : s.fetchBytes = ([first s s.pc], { s with draws := s.draws + readDraw s s.pc }) := by
    simp only [State.fetchBytes, hlen, State.load_snd, first]
  rw [State.fetch, hbytes, (decode_eq_unassigned_iff _ []).2 h]

/-- Settles O5: the decoder's rejection by the first-byte map, and the running machine by what it fetches. -/
theorem tenFirstBytesAreRefused : Obligations.TenFirstBytesAreRefused := by
  refine ⟨decode_eq_unassigned_iff, fun s hrun hfirst => ?_⟩
  have hfetch := State.fetch_of_unassigned hfirst
  rw [step_of_running hrun]
  refine ⟨fun hrefuse => ?_, fun hnop => ⟨s.draws + readDraw s s.pc, ?_⟩⟩
  · rw [hrefuse, resolveIllegal_refuse] at hfetch
    simp only [State.runInstruction, hfetch, refusedByte]
  · rw [hnop, resolveIllegal_nop_rejected] at hfetch
    exact State.runInstruction_of_fetch hfetch

end Machine

end Sys2Proof
end

section
/-! PROOFS. The helpers of the statements tied to the model: encodings, halves of a word, the answers of a load and memory after writes
(spec/20_memory.md R61 to R63, R78; spec/30_encoding.md R91 to R96). -/

namespace Sys2Proof

open Claims

/-! ### Halves of a word (R9) -/

theorem hiByte_eq_high (w : Word) : hiByte w = high w :=
  BitVec.eq_of_toNat_eq (by have := w.isLt; rw [hiByte_toNat, high, BitVec.toNat_ofNat]; omega)

theorem loByte_eq_low (w : Word) : loByte w = low w :=
  BitVec.eq_of_toNat_eq (by rw [loByte_toNat, low, BitVec.toNat_ofNat]; omega)

/-- R62: the encoder's three bytes as numbers. -/
theorem enc16_eq_op16 (n : Nat) (w : Word) : enc16 (op n) w = op16 n w := by
  rw [enc16, loByte_eq_low, hiByte_eq_high, op16, low, high]

namespace Claims

open Machine

/-- The decoder needs no proof of its own in a row: it reads back what the encoder writes. -/
theorem Row.of_encode {i : Instr} {bytes : List Byte} {cycles states : Nat} (hwf : i.wellFormed = true) (hbytes : encode i = bytes)
    (htiming : ∀ f, timing f i = ⟨cycles, states⟩) : Row i bytes cycles states :=
  ⟨⟨hbytes, hbytes ▸ decode_encode i hwf⟩, htiming⟩

/-! ### Loads in the words of the statements -/

theorem load_eq_first (s : State) (a : Word) : s.load a = (first s a, { s with draws := s.draws + readDraw s a }) :=
  Prod.ext rfl (s.load_snd a)

theorem loadWord_eq_second_first (s : State) (a : Word) :
    s.loadWord a = (wordOf (second s a) (first s a), { s with draws := s.draws + readDraws s [a, a + 1] }) :=
  Prod.ext rfl (s.loadWord_snd a)

/-! ### Memory after writes -/

/-- Where a memory reads as after the writes `ws`, one more write makes it read as after that one too, the latest (R61). -/
theorem read_write_eq_readAfter {s : State} {m : Memory} {ws : List (Word × Byte)} (h : ∀ b : Word, m.read b.toNat = readAfter s ws b)
    (a : Word) (v : Byte) (b : Word) : (m.write a.toNat v).read b.toNat = readAfter s ((a, v) :: ws) b := by
  simp only [Memory.read_write, readAfter, h, BitVec.toNat_inj]

/-- An instruction that stores one byte in RAM and then leaves memory alone. -/
theorem Stores.of_store {i : Instr} {s t : State} {a : Word} {v : Byte} {f : State → Result}
    (hexec : exec i s = andThen (s.store a v) f) (hram : s.isRam a) (hrest : ∀ m, f { s with mem := m } = .next { t with mem := m }) :
    Stores i s [(a, v)] t := by
  refine ⟨s.mem.write a.toNat v, ?_, read_write_eq_readAfter (fun _ => rfl) a v⟩
  rw [hexec, State.store_ram v hram, andThen_next, hrest]

/-- The same for two bytes; where the addresses are equal the second write is the one that is read. -/
theorem Stores.of_store_store {i : Instr} {s t : State} {a b : Word} {v w : Byte} {f : State → Result}
    (hexec : exec i s = andThen (s.store a v) fun s1 => andThen (s1.store b w) f) (ha : s.isRam a) (hb : s.isRam b)
    (hrest : ∀ m, f { s with mem := m } = .next { t with mem := m }) : Stores i s [(b, w), (a, v)] t := by
  refine ⟨(s.mem.write a.toNat v).write b.toNat w, ?_, read_write_eq_readAfter (read_write_eq_readAfter (fun _ => rfl) a v) b w⟩
  have hb' : ({ s with mem := s.mem.write a.toNat v } : State).region b = .ram := hb
  rw [hexec, State.store_ram v ha, andThen_next, State.store_ram w hb', andThen_next, hrest]

end Claims

namespace Machine

theorem State.bc_eq_word (s : State) : s.bc = word s.regs.b s.regs.c := wordOf_eq_word _ _

theorem State.de_eq_word (s : State) : s.de = word s.regs.d s.regs.e := wordOf_eq_word _ _

end Machine

end Sys2Proof
end

section
/-! PROOFS. Data transfer (spec/41_data_transfer.md R132 to R144). -/

namespace Sys2Proof.Machine

open Claims

/-! ### Loads -/

/-- MOV r M, LDA and LDAX: one byte from memory to a register, then PC goes on. -/
theorem answers_of_load {i : Instr} {s : State} {a : Word} {r : Reg} {len : Nat}
    (hexec : exec i s = .next (((s.load a).2.setReg r (s.load a).1).advance len)) :
    Answers i s { s with regs := s.regs.set r (first s a), pc := s.nextPc len } :=
  ⟨s.draws + readDraw s a, by rw [hexec, load_eq_first]; rfl⟩

/-- R140: L takes the first answer, H the second, which is that of address 0x0000 after 0xFFFF. -/
theorem lhld_answers (a : Word) (s : State) :
    Answers (.lhld a) s { s with regs := { s.regs with l := first s a, h := second s a }, pc := s.nextPc 3 } := by
  refine ⟨s.draws + readDraws s [a, a + 1], ?_⟩
  have hexec : exec (.lhld a) s = .next (((s.loadWord a).2.setPair .h (s.loadWord a).1).advance 3) := rfl
  rw [hexec, loadWord_eq_second_first, State.setPair, hiByte_wordOf, loByte_wordOf]
  rfl

/-- Settles O35: the four loads by what one read, or LHLD's two reads, answer. -/
theorem loadsFromMemory : Obligations.LoadsFromMemory := by
  intro s
  refine ⟨fun r => ⟨.of_encode rfl (by cases r <;> rfl) fun _ => rfl, ?_⟩,
    fun a => ⟨.of_encode rfl (enc16_eq_op16 0x3A a) fun _ => rfl, answers_of_load (r := .a) rfl⟩,
    fun a => ⟨.of_encode rfl (enc16_eq_op16 0x2A a) fun _ => rfl, lhld_answers a s⟩,
    .of_encode rfl rfl fun _ => rfl, ?_, .of_encode rfl rfl fun _ => rfl, ?_⟩
  · rw [← s.hl_eq_word]
    exact answers_of_load rfl
  · rw [← s.bc_eq_word]
    exact answers_of_load (r := .a) rfl
  · rw [← s.de_eq_word]
    exact answers_of_load (r := .a) rfl

/-! ### Stores -/

/-- Settles O36: each store is one write to RAM, SHLD two, and then PC goes on. -/
theorem storesToMemory : Obligations.StoresToMemory := by
  intro s
  rw [← s.hl_eq_word, ← s.bc_eq_word, ← s.de_eq_word]
  exact ⟨
    fun r => ⟨.of_encode rfl (by cases r <;> rfl) fun _ => rfl, fun hram => .of_store rfl hram fun _ => rfl⟩,
    fun v => ⟨.of_encode rfl rfl fun _ => rfl, fun hram => .of_store rfl hram fun _ => rfl⟩,
    fun a => ⟨.of_encode rfl (enc16_eq_op16 0x32 a) fun _ => rfl, fun hram => .of_store rfl hram fun _ => rfl⟩,
    .of_encode rfl rfl fun _ => rfl, fun hram => .of_store rfl hram fun _ => rfl,
    .of_encode rfl rfl fun _ => rfl, fun hram => .of_store rfl hram fun _ => rfl,
    fun a => ⟨.of_encode rfl (enc16_eq_op16 0x22 a) fun _ => rfl,
      fun hlow hhigh => .of_store_store rfl hlow hhigh fun _ => rfl⟩⟩

/-! ### Transfers between registers -/

/-- R22: a register read after one is set. -/
theorem State.setReg_reg (s : State) (r q : Reg) (v : Byte) : (s.setReg r v).reg q = if q = r then v else s.reg q := by
  split
  next h => rw [h, s.setReg_reg_self]
  next h => rw [s.setReg_reg_other r q v h]

/-- R137: the bytes of LXI, the pair's number in the first. -/
theorem encode_lxi (p : Pair) (w : Word) : encode (.lxi p w) = op16 (0x01 + 16 * pairNumber p) w := by
  rw [← enc16_eq_op16]
  cases p <;> rfl

/-- R144: both pairs are read before either is written. -/
theorem exec_xchg (s : State) :
    exec .xchg s = .next
      { s with regs := { s.regs with h := s.regs.d, l := s.regs.e, d := s.regs.h, e := s.regs.l }, pc := s.nextPc 1 } := by
  have hexec : exec .xchg s = .next (((s.setPair .h s.de).setPair .d s.hl).advance 1) := rfl
  simp only [hexec, State.setPair, State.de, State.hl, hiByte_wordOf, loByte_wordOf]
  rfl

/-- Settles O34: setting one register, the halves of LXI's operand, and XCHG's exchange. -/
theorem registerTransfers : Obligations.RegisterTransfers := by
  intro s
  simp only [← hiByte_eq_high, ← loByte_eq_low]
  exact ⟨
    fun r q v => ⟨s.setReg_reg r q v, rfl⟩,
    fun r v => ⟨.of_encode rfl (by cases r <;> rfl) fun _ => rfl, rfl⟩,
    fun r1 r2 => ⟨.of_encode rfl (by cases r1 <;> cases r2 <;> rfl) fun _ => rfl, rfl⟩,
    fun p w => .of_encode rfl (encode_lxi p w) fun _ => rfl,
    fun _ => rfl, fun _ => rfl, fun _ => rfl, fun _ => rfl,
    .of_encode rfl rfl fun _ => rfl,
    exec_xchg s⟩

end Sys2Proof.Machine
end

section
/-! PROOFS. The flag formulas of the statements tied to the model's (spec/10_state.md R30 to R35; spec/42_arithmetic.md R161, R162). -/

namespace Sys2Proof.Machine

open Claims

/-! ### S, Z and P of a result -/

/-- Counting the elements that satisfy a test and folding the test's answers by exclusive or tell the same parity. -/
theorem even_length_filter (p : Nat → Bool) (l : List Nat) :
    ((l.filter p).length % 2 == 0) = !(l.foldr (fun i x => p i ^^ x) false) := by
  induction l with
  | nil => rfl
  | cons i l ih =>
    rw [List.filter_cons, List.foldr_cons]
    cases p i with
    | false => simpa using ih
    | true =>
      have hfold : l.foldr (fun i x => p i ^^ x) false = !((l.filter p).length % 2 == 0) := by rw [ih, Bool.not_not]
      rw [hfold, Bool.eq_iff_iff]
      simp only [if_true, List.length_cons, Bool.true_xor, Bool.not_not, Bool.not_eq_true', beq_iff_eq, beq_eq_false_iff_ne]
      omega

/-- R33: the number of 1 bits is even where their exclusive or is 0. -/
theorem parity_eq_evenOnes (v : Byte) : parity v = evenOnes v := by
  simp only [parity, popCount, even_length_filter, evenOnes, List.range, List.range.loop, List.foldr_cons, List.foldr_nil,
    Bool.xor_false, Bool.xor_assoc]

/-- R35 and the two carries as given: the old flags do not matter. -/
theorem Flags.ofAlu_eq_flagsOf (f : Flags) (r : Alu) : f.ofAlu r = flagsOf r.res r.cy r.ac := by
  have hs : r.res.getLsbD 7 = decide (128 ≤ r.res.toNat) := BitVec.msb_eq_decide r.res
  have hz : (r.res == 0) = decide (r.res.toNat = 0) := decide_eq_decide.mpr BitVec.toNat_inj.symm
  rw [Flags.ofAlu, Flags.szp, flagsOf, hs, hz, parity_eq_evenOnes]

theorem Flags.ofAluKeepCy_eq_flagsOf (f : Flags) (r : Alu) : f.ofAluKeepCy r = { flagsOf r.res r.cy r.ac with cy := f.cy } := by
  rw [← f.ofAlu_eq_flagsOf]
  rfl

/-! ### The sum and the difference -/

theorem bit_eq_toNat (c : Bool) : bit c = c.toNat := by cases c <;> rfl

/-- R161. -/
theorem add8_eq_sum8 (a x : Byte) (c : Bool) :
    add8 a x c =
      ⟨sum8 a x c, decide (255 < a.toNat + x.toNat + bit c), decide (15 < a.toNat % 16 + x.toNat % 16 + bit c)⟩ := by
  rw [sum8, bit_eq_toNat]
  rfl

/-- R162: a carry out of bit 3 of `a + ~x + (1 - c)` is the absence of a borrow out of the low nibble. -/
theorem sub8_eq_diff8 (a x : Byte) (c : Bool) :
    sub8 a x c =
      ⟨diff8 a x c, decide (a.toNat < x.toNat + bit c), decide (x.toNat % 16 + bit c ≤ a.toNat % 16)⟩ := by
  rw [sub8, diff8, bit_eq_toNat]
  have ha := a.isLt
  have hx := x.isLt
  have hc := c.toNat_le
  congr 1
  · apply BitVec.eq_of_toNat_eq
    simp only [BitVec.toNat_sub, BitVec.toNat_ofNat]
    omega
  · rw [decide_eq_decide]
    omega

theorem Flags.ofAluKeepCy_add8 (f : Flags) (a x : Byte) (c : Bool) :
    f.ofAluKeepCy (add8 a x c) = { sumFlags a x c with cy := f.cy } := by
  rw [Flags.ofAluKeepCy_eq_flagsOf, add8_eq_sum8, sumFlags]

theorem Flags.ofAluKeepCy_sub8 (f : Flags) (a x : Byte) (c : Bool) :
    f.ofAluKeepCy (sub8 a x c) = { diffFlags a x c with cy := f.cy } := by
  rw [Flags.ofAluKeepCy_eq_flagsOf, sub8_eq_diff8, diffFlags]

theorem State.accumulate_add8 (s : State) (x : Byte) (c : Bool) : s.accumulate (add8 s.regs.a x c) = added s x c := by
  rw [State.accumulate, Flags.ofAlu_eq_flagsOf, add8_eq_sum8, added, sumFlags, withA]

theorem State.accumulate_sub8 (s : State) (x : Byte) (c : Bool) : s.accumulate (sub8 s.regs.a x c) = subtracted s x c := by
  rw [State.accumulate, Flags.ofAlu_eq_flagsOf, sub8_eq_diff8, subtracted, diffFlags, withA]

end Sys2Proof.Machine
end

section
/-! PROOFS. Arithmetic on bytes and pairs (spec/42_arithmetic.md R163 to R181). -/

namespace Sys2Proof.Machine

open Claims

/-! ### Additions and subtractions -/

/-- An instruction with operand M that works on A and the flags: its load only draws. -/
theorem answers_of_load_accumulate {i : Instr} {s : State} {a : Word} {r : Alu}
    (hexec : exec i s = .next (((s.load a).2.accumulate r).advance 1)) :
    Answers i s { s.accumulate r with pc := s.pc + 1 } :=
  ⟨s.draws + readDraw s a, by rw [hexec, State.load_snd]; rfl⟩

/-- Settles O37: each addition puts the triple of R161 into A and the flags. -/
theorem additions : Obligations.Additions := by
  intro s
  simp only [← s.hl_eq_word, ← s.accumulate_add8]
  exact ⟨
    fun r => ⟨.of_encode rfl (by cases r <;> rfl) fun _ => rfl, rfl⟩,
    .of_encode rfl rfl fun _ => rfl, answers_of_load_accumulate rfl,
    fun v => ⟨.of_encode rfl rfl fun _ => rfl, rfl⟩,
    fun r => ⟨.of_encode rfl (by cases r <;> rfl) fun _ => rfl, rfl⟩,
    .of_encode rfl rfl fun _ => rfl, answers_of_load_accumulate rfl,
    fun v => ⟨.of_encode rfl rfl fun _ => rfl, rfl⟩⟩

/-- Settles O38: each subtraction puts the triple of R162 into A and the flags. -/
theorem subtractions : Obligations.Subtractions := by
  intro s
  simp only [← s.hl_eq_word, ← s.accumulate_sub8]
  exact ⟨
    fun r => ⟨.of_encode rfl (by cases r <;> rfl) fun _ => rfl, rfl⟩,
    .of_encode rfl rfl fun _ => rfl, answers_of_load_accumulate rfl,
    fun v => ⟨.of_encode rfl rfl fun _ => rfl, rfl⟩,
    fun r => ⟨.of_encode rfl (by cases r <;> rfl) fun _ => rfl, rfl⟩,
    .of_encode rfl rfl fun _ => rfl, answers_of_load_accumulate rfl,
    fun v => ⟨.of_encode rfl rfl fun _ => rfl, rfl⟩⟩

/-! ### Increments and decrements -/

theorem add8_res (a x : Byte) (c : Bool) : (add8 a x c).res = sum8 a x c := by rw [add8_eq_sum8]

theorem sub8_res (a x : Byte) (c : Bool) : (sub8 a x c).res = diff8 a x c := by rw [sub8_eq_diff8]

/-- R176, R178: INR M and DCR M load the byte at HL, which is RAM, and store what `f` makes of it. -/
theorem stores_of_modifyM {i : Instr} {s : State} (f : Byte → Alu)
    (hexec : exec i s = andThen ((s.load s.hl).2.store s.hl (f (s.load s.hl).1).res) fun s1 =>
      .next { s1.advance 1 with flags := s.flags.ofAluKeepCy (f (s.load s.hl).1) })
    (hram : s.isRam s.hl) :
    Stores i s [(s.hl, (f (s.byteAt s.hl)).res)] { s with flags := s.flags.ofAluKeepCy (f (s.byteAt s.hl)), pc := s.pc + 1 } := by
  rw [State.load_ram hram] at hexec
  exact .of_store hexec hram fun _ => rfl

/-- Settles O39: the result and every flag but CY of the sum or difference with 1; operand M is loaded and stored in RAM. -/
theorem incrementsAndDecrements : Obligations.IncrementsAndDecrements := by
  intro s
  simp only [← s.hl_eq_word, ← add8_res, ← sub8_res, ← Flags.ofAluKeepCy_add8, ← Flags.ofAluKeepCy_sub8]
  exact ⟨
    fun r => ⟨.of_encode rfl (by cases r <;> rfl) fun _ => rfl, rfl⟩,
    fun r => ⟨.of_encode rfl (by cases r <;> rfl) fun _ => rfl, rfl⟩,
    .of_encode rfl rfl fun _ => rfl, stores_of_modifyM (add8 · 1 false) rfl,
    .of_encode rfl rfl fun _ => rfl, stores_of_modifyM (sub8 · 1 false) rfl⟩

/-! ### Pairs -/

@[simp] theorem State.setPair_pair_self (s : State) (p : Pair) (v : Word) : (s.setPair p v).pair p = v := by
  cases p with
  | sp => rfl
  | b | d | h => exact wordOf_hiByte_loByte v

theorem State.setPair_pair_other (s : State) {p q : Pair} (v : Word) (h : q ≠ p) : (s.setPair p v).pair q = s.pair q := by
  cases p <;> cases q <;> trivial

/-- R9, R21: setting a pair writes registers or SP and nothing else. -/
theorem State.setPair_eq (s : State) (p : Pair) (v : Word) :
    s.setPair p v = { s with regs := (s.setPair p v).regs, sp := (s.setPair p v).sp } := by
  cases p <;> rfl

/-- R21: A belongs to no pair. -/
theorem State.setPair_a (s : State) (p : Pair) (v : Word) : (s.setPair p v).regs.a = s.regs.a :=
  s.setPair_reg_of_notMem p (r := .a) v (by cases p <;> decide)

/-- INX and DCX: a new value `n` of the pair, and what that leaves alone. -/
theorem setPair_advance_frame {i : Instr} {s : State} {p : Pair} {v : Word} {n : Nat}
    (hexec : exec i s = .next ((s.setPair p v).advance 1)) (hv : v.toNat = n) :
    ∃ t, exec i s = .next t ∧ (t.pair p).toNat = n ∧ (∀ q, q ≠ p → t.pair q = s.pair q) ∧
      t = { s with regs := t.regs, sp := t.sp, pc := s.pc + 1 } ∧ t.regs.a = s.regs.a := by
  have hpair (q : Pair) : ((s.setPair p v).advance 1).pair q = (s.setPair p v).pair q := by cases q <;> rfl
  refine ⟨_, hexec, ?_, fun q hq => ?_, ?_, s.setPair_a p v⟩
  · rw [hpair, s.setPair_pair_self, hv]
  · rw [hpair, s.setPair_pair_other v hq]
  · rw [s.setPair_eq p v]
    rfl

/-- R181: the halves of the sum modulo 65,536 go to H and L. -/
theorem exec_dad (p : Pair) (s : State) :
    exec (.dad p) s = .next
      { s with
        regs :=
          { s.regs with
            h := high (BitVec.ofNat 16 (s.hl.toNat + (s.pair p).toNat))
            l := low (BitVec.ofNat 16 (s.hl.toNat + (s.pair p).toNat)) }
        flags := { s.flags with cy := decide (65535 < s.hl.toNat + (s.pair p).toNat) }
        pc := s.pc + 1 } := by
  rw [← hiByte_eq_high, ← loByte_eq_low]
  rfl

/-- Settles O40: INX and DCX set the pair to its value plus or minus 1, DAD sets HL to the sum. -/
theorem pairArithmetic : Obligations.PairArithmetic := fun s p => ⟨
  .of_encode rfl (by cases p <;> rfl) fun _ => rfl, setPair_advance_frame rfl (BitVec.toNat_add _ _),
  .of_encode rfl (by cases p <;> rfl) fun _ => rfl,
  setPair_advance_frame rfl ((BitVec.toNat_sub _ _).trans (congrArg (· % 65536) (Nat.add_comm 65535 _))),
  .of_encode rfl (by cases p <;> rfl) fun _ => rfl, exec_dad p s⟩

end Sys2Proof.Machine
end

section
/-! PROOFS. Decimal adjust (spec/42_arithmetic.md R182). -/

namespace Sys2Proof.Machine

open Claims

/-! ### The one-pass form -/

/-- R182: what the one-pass form adds for the low nibble. -/
def lowCorrection (a : Byte) (ac : Bool) : Nat := if 9 < a.toNat % 16 ∨ ac = true then 6 else 0

/-- R182: whether the one-pass form adds 0x60 too. -/
def correctsHigh (a : Byte) (cy : Bool) : Bool := decide (0x99 < a.toNat) || cy

/-- Step 1 adds the correction of the low nibble, and its carry out of bit 3 is that of this sum. -/
theorem daa8_eq_twoSteps (a : Byte) (ac cy : Bool) {t : Nat} {high : Bool} (ht : a.toNat + lowCorrection a ac = t)
    (hhigh : (decide (9 < t % 256 / 16) || cy || decide (255 < t)) = high) :
    daa8 a ac cy =
      { res := BitVec.ofNat 8 (if high then t % 256 + 0x60 else t % 256)
        cy := high
        ac := decide (15 < a.toNat % 16 + lowCorrection a ac) } := by
  subst ht hhigh
  by_cases hlow : 9 < a.toNat % 16 ∨ ac = true
  · have hcond : (decide (a.toNat % 16 > 9) || ac) = true := by simpa using hlow
    simp [daa8, lowCorrection, hlow, hcond]
  · have hcond : (decide (a.toNat % 16 > 9) || ac) = false := by simpa using hlow
    have hcarry : ¬15 < a.toNat % 16 := by omega
    simp [daa8, lowCorrection, hlow, hcond, hcarry]

/-- The high nibble after step 1, or a carry out of it, tells whether the original value is above 0x99: step 1 lifts 0x9A to 0x9F over
0xA0, and no lower value. -/
theorem high_after_step1_iff (a : Byte) (ac : Bool) :
    9 < (a.toNat + lowCorrection a ac) % 256 / 16 ∨ 255 < a.toNat + lowCorrection a ac ↔ 0x99 < a.toNat := by
  have := a.isLt
  unfold lowCorrection
  split <;> omega

/-- R182: the two steps in one pass. -/
theorem daa8_eq_onePass (a : Byte) (ac cy : Bool) :
    daa8 a ac cy =
      { res := BitVec.ofNat 8 (a.toNat + lowCorrection a ac + if correctsHigh a cy then 0x60 else 0)
        cy := correctsHigh a cy
        ac := decide (15 < a.toNat % 16 + lowCorrection a ac) } := by
  have hhigh : (decide (9 < (a.toNat + lowCorrection a ac) % 256 / 16) || cy ||
      decide (255 < a.toNat + lowCorrection a ac)) = correctsHigh a cy := by
    rw [correctsHigh, ← decide_eq_decide.mpr (high_after_step1_iff a ac), Bool.decide_or, Bool.or_right_comm]
  rw [daa8_eq_twoSteps a ac cy rfl hhigh]
  congr 1
  apply BitVec.eq_of_toNat_eq
  simp only [BitVec.toNat_ofNat]
  split <;> omega

/-- Settles O41: A and the flags take the triple of the one-pass form. -/
theorem decimalAdjust : Obligations.DecimalAdjust := by
  refine ⟨.of_encode rfl rfl fun _ => rfl, fun s => ?_⟩
  have hexec : exec .daa s = .next ((s.accumulate (daa8 s.regs.a s.flags.ac s.flags.cy)).advance 1) := rfl
  rw [hexec, State.accumulate, Flags.ofAlu_eq_flagsOf, daa8_eq_onePass]
  rfl

/-! ### Decimal addition

For two decimal operands with low digits adding up to `l`, the carry in included, and high digits to `h`, the binary sum is `16 * h + l`
and the decimal sum `10 * h + l`. -/

theorem decimal_digits {a : Byte} (ha : IsBcd a) :
    ∃ hi lo, hi ≤ 9 ∧ lo ≤ 9 ∧ a.toNat = 16 * hi + lo ∧ decimal a = 10 * hi + lo := by
  obtain ⟨hlo, hhi⟩ := ha
  exact ⟨a.toNat / 16, a.toNat % 16, hhi, hlo, by omega, by rw [decimal]; omega⟩

/-- The byte that two decimal digits write. -/
theorem isBcd_of_digits {a : Byte} {hi lo : Nat} (hhi : hi ≤ 9) (hlo : lo ≤ 9) (ha : a.toNat = 16 * hi + lo) :
    IsBcd a ∧ decimal a = 10 * hi + lo := by
  rw [IsBcd, decimal, ha]
  omega

section

variable {r : Byte} {h l : Nat} (hr : r.toNat = (16 * h + l) % 256) (hl : l ≤ 19)

include hr hl

/-- The low nibble is corrected where the low digits carry in decimal. -/
theorem lowCorrection_of_digits : lowCorrection r (decide (15 < l)) = if 9 < l then 6 else 0 := by
  have hcond : 9 < r.toNat % 16 ∨ decide (15 < l) = true ↔ 9 < l := by
    rw [decide_eq_true_iff]
    omega
  rw [lowCorrection, if_congr hcond rfl rfl]

/-- The high nibble is corrected where the high digits, with the decimal carry of the low ones, carry. -/
theorem correctsHigh_of_digits : correctsHigh r (decide (255 < 16 * h + l)) = decide (9 < h + l / 10) := by
  have hcarry : l / 10 = 0 ∨ l / 10 = 1 := by omega
  rw [correctsHigh, ← Bool.decide_or, decide_eq_decide]
  rcases hcarry with hcarry | hcarry <;> omega

/-- After a binary sum and its carries DAA writes the digits of the decimal sum, with CY as the hundreds. -/
theorem daa8_of_digits {d : Alu} (hd : daa8 r (decide (15 < l)) (decide (255 < 16 * h + l)) = d) (hh : h + l / 10 ≤ 19) :
    d.res.toNat = 16 * ((h + l / 10) % 10) + l % 10 ∧ bit d.cy = (h + l / 10) / 10 := by
  rw [daa8_eq_onePass, lowCorrection_of_digits hr hl, correctsHigh_of_digits hr hl] at hd
  subst hd
  simp only [bit, BitVec.toNat_ofNat, decide_eq_true_eq, hr]
  split <;> split <;> omega

end

/-- R166, R182: DAA after the addition of two decimal operands. -/
theorem daa8_add8 {a x : Byte} {c : Bool} {t d : Alu} (ha : IsBcd a) (hx : IsBcd x) (ht : add8 a x c = t)
    (hd : daa8 t.res t.ac t.cy = d) : IsBcd d.res ∧ decimal d.res + 100 * bit d.cy = decimal a + decimal x + bit c := by
  obtain ⟨ahi, alo, hahi, halo, hanum, hadec⟩ := decimal_digits ha
  obtain ⟨xhi, xlo, hxhi, hxlo, hxnum, hxdec⟩ := decimal_digits hx
  have hc : bit c ≤ 1 := bit_eq_toNat c ▸ c.toNat_le
  have hsum : a.toNat + x.toNat + bit c = 16 * (ahi + xhi) + (alo + xlo + bit c) := by omega
  have hlow : a.toNat % 16 + x.toNat % 16 + bit c = alo + xlo + bit c := by omega
  have hres : (sum8 a x c).toNat = (16 * (ahi + xhi) + (alo + xlo + bit c)) % 256 := by rw [sum8, BitVec.toNat_ofNat, hsum]
  subst ht
  rw [add8_eq_sum8, hsum, hlow] at hd
  obtain ⟨hnum, hcy⟩ := daa8_of_digits hres (by omega) hd (by omega)
  obtain ⟨hbcd, hdec⟩ := isBcd_of_digits (by omega) (by omega) hnum
  exact ⟨hbcd, by omega⟩

/-- Settles O42: ADC leaves the triple of R161 in A and the flags, where DAA finds it. -/
theorem decimalAddition : Obligations.DecimalAddition := by
  intro s t u r ha hr hadc hdaa
  cases hadc
  cases hdaa
  exact daa8_add8 ha hr rfl rfl

end Sys2Proof.Machine
end

section
/-! PROOFS. Logical operations, compares, rotates, complement and carry control (spec/43_logical.md R201 to R219). -/

namespace Sys2Proof.Machine

open Claims

/-! ### Logical operations and compares -/

/-- An instruction with operand M whose write `f` to the state does not look at the counter of free values: its load only draws. -/
theorem answers_of_load_then {i : Instr} {s : State} {a : Word} (f : State → State)
    (hexec : exec i s = .next ((f (s.load a).2).advance 1)) (hdraws : ∀ d, f { s with draws := d } = { f s with draws := d }) :
    Answers i s ((f s).advance 1) :=
  ⟨s.draws + readDraw s a, by rw [hexec, State.load_snd, hdraws]; rfl⟩

/-- A logical result sets the flags that an arithmetic result without a carry would. -/
theorem State.accumulateLogic_eq_combined (s : State) (res : Byte) (ac : Bool) : s.accumulateLogic res ac = combined s res ac := by
  have hflags : s.flags.ofLogic res ac = flagsOf res false ac := s.flags.ofAlu_eq_flagsOf ⟨res, false, ac⟩
  rw [State.accumulateLogic, hflags, combined, withA]

theorem State.compareFlags_sub8 (s : State) (x : Byte) : s.compareFlags (sub8 s.regs.a x false) = compared s x := by
  rw [State.compareFlags, Flags.ofAlu_eq_flagsOf, sub8_eq_diff8, compared, diffFlags]

/-- Settles O43: each operation puts the bitwise result into A and the flags. -/
theorem logicalOperations : Obligations.LogicalOperations := by
  intro s
  simp only [← s.hl_eq_word, ← s.accumulateLogic_eq_combined]
  exact ⟨
    fun r => ⟨.of_encode rfl (by cases r <;> rfl) fun _ => rfl, rfl⟩,
    .of_encode rfl rfl fun _ => rfl, answers_of_load_then (·.accumulateLogic (s.regs.a &&& first s s.hl) true) rfl fun _ => rfl,
    fun v => ⟨.of_encode rfl rfl fun _ => rfl, rfl⟩,
    fun r => ⟨.of_encode rfl (by cases r <;> rfl) fun _ => rfl, rfl⟩,
    .of_encode rfl rfl fun _ => rfl, answers_of_load_then (·.accumulateLogic (s.regs.a ^^^ first s s.hl) false) rfl fun _ => rfl,
    fun v => ⟨.of_encode rfl rfl fun _ => rfl, rfl⟩,
    fun r => ⟨.of_encode rfl (by cases r <;> rfl) fun _ => rfl, rfl⟩,
    .of_encode rfl rfl fun _ => rfl, answers_of_load_then (·.accumulateLogic (s.regs.a ||| first s s.hl) false) rfl fun _ => rfl,
    fun v => ⟨.of_encode rfl rfl fun _ => rfl, rfl⟩⟩

/-- R162: a difference without a borrow in is 0 only where the operands are equal. -/
theorem diff8_toNat_eq_zero_iff (a x : Byte) : (diff8 a x false).toNat = 0 ↔ a = x := by
  have ha := a.isLt
  have hx := x.isLt
  rw [diff8, BitVec.toNat_ofNat, ← BitVec.toNat_inj, bit_eq_toNat, Bool.toNat_false]
  omega

/-- Settles O44: the flags of the triple of R162; its Z is equality, its borrow unsigned less-than. -/
theorem compares : Obligations.Compares := by
  intro s
  refine ⟨fun r => ?_, .of_encode rfl rfl fun _ => rfl, ?_, fun v => ?_, fun v => ⟨?_, decide_eq_true_iff⟩⟩
  · exact ⟨.of_encode rfl (by cases r <;> rfl) fun _ => rfl, by rw [← s.compareFlags_sub8]; rfl⟩
  · rw [← s.hl_eq_word, ← s.compareFlags_sub8]
    exact answers_of_load_then (·.compareFlags (sub8 s.regs.a (first s s.hl) false)) rfl fun _ => rfl
  · exact ⟨.of_encode rfl rfl fun _ => rfl, by rw [← s.compareFlags_sub8]; rfl⟩
  · exact decide_eq_true_iff.trans (diff8_toNat_eq_zero_iff s.regs.a v)

/-! ### Rotates -/

/-- R213, R215: bit 7 is shifted out and `c` comes in as bit 0. -/
theorem getLsbD_shiftLeft_or_carry (a : Byte) (c : Bool) {i : Nat} (hi : i < 8) :
    ((a <<< 1) ||| BitVec.ofNat 8 c.toNat).getLsbD i = if i = 0 then c else a.getLsbD (i - 1) := by
  have hc : (BitVec.ofNat 8 c.toNat).getLsbD i = (decide (i = 0) && c) := by
    cases c with
    | false => simp
    | true => exact BitVec.getLsbD_one.trans (by simp)
  rw [BitVec.getLsbD_or, BitVec.getLsbD_shiftLeft, hc]
  cases i with
  | zero => simp
  | succ i => simp [hi]

/-- R214, R216: bit 0 is shifted out and `c` comes in as bit 7. -/
theorem getLsbD_shiftRight_or_carry (a : Byte) (c : Bool) (i : Nat) :
    ((a >>> 1) ||| BitVec.ofNat 8 (c.toNat * 128)).getLsbD i = if i = 7 then c else a.getLsbD (i + 1) := by
  have hc : (BitVec.ofNat 8 (c.toNat * 128)).getLsbD i = (decide (i = 7) && c) := by
    cases c with
    | false => simp
    | true => exact (BitVec.getLsbD_twoPow 7 i).trans (by simp [eq_comm])
  rw [BitVec.getLsbD_or, BitVec.getLsbD_ushiftRight, hc, Nat.add_comm 1]
  by_cases h : i = 7 <;> simp [h]

/-- R213: the moved bit is the one shifted out. -/
theorem rotateLeft_res (a : Byte) : (rotateLeft a).res = a.rotateLeft 1 := by
  refine BitVec.eq_of_getLsbD_eq fun i hi => ?_
  rw [rotateLeft, getLsbD_shiftLeft_or_carry a _ hi, BitVec.getLsbD_rotateLeft]
  cases i with
  | zero => rfl
  | succ i => simp [hi]

/-- R214: the moved bit is the one shifted out. -/
theorem rotateRight_res (a : Byte) : (rotateRight a).res = a.rotateRight 1 := by
  refine BitVec.eq_of_getLsbD_eq fun i hi => ?_
  rw [rotateRight, getLsbD_shiftRight_or_carry, BitVec.getLsbD_rotateRight]
  split
  next h => rw [h]; rfl
  next h => simp [show i < 7 by omega, Nat.add_comm 1]

/-- The ring with A in its low eight bits. -/
theorem getLsbD_ring_of_lt (s : State) {i : Nat} (hi : i < 8) : (ring s).getLsbD i = s.regs.a.getLsbD i :=
  BitVec.getLsbD_append.trans (if_pos hi)

/-- The ring with CY on top. -/
theorem getLsbD_ring_eight (s : State) : (ring s).getLsbD 8 = s.flags.cy :=
  BitVec.getLsbD_append.trans (BitVec.getLsbD_ofBool s.flags.cy 0)

/-- R215: the new A and CY are the rotated ring. -/
theorem State.accumulateRotated_left (s : State) :
    s.accumulateRotated (rotateLeftThroughCarry s.regs.a s.flags.cy) = withRing s ((ring s).rotateLeft 1) := by
  have hres : (rotateLeftThroughCarry s.regs.a s.flags.cy).res = ((ring s).rotateLeft 1).extractLsb' 0 8 := by
    refine BitVec.eq_of_getLsbD_eq fun i hi => ?_
    rw [rotateLeftThroughCarry, getLsbD_shiftLeft_or_carry _ _ hi, BitVec.getLsbD_extractLsb', BitVec.getLsbD_rotateLeft]
    cases i with
    | zero => exact (getLsbD_ring_eight s).symm
    | succ i => simp [getLsbD_ring_of_lt s (show i < 8 by omega), hi, show i + 1 < 9 by omega]
  have hcy : (rotateLeftThroughCarry s.regs.a s.flags.cy).cy = ((ring s).rotateLeft 1).getLsbD 8 := by
    rw [BitVec.getLsbD_rotateLeft]
    exact (getLsbD_ring_of_lt s (i := 7) (by decide)).symm
  rw [State.accumulateRotated, hres, hcy, withRing, withA]

/-- R216: the new A and CY are the rotated ring. -/
theorem State.accumulateRotated_right (s : State) :
    s.accumulateRotated (rotateRightThroughCarry s.regs.a s.flags.cy) = withRing s ((ring s).rotateRight 1) := by
  have hres : (rotateRightThroughCarry s.regs.a s.flags.cy).res = ((ring s).rotateRight 1).extractLsb' 0 8 := by
    refine BitVec.eq_of_getLsbD_eq fun i hi => ?_
    rw [rotateRightThroughCarry, getLsbD_shiftRight_or_carry, BitVec.getLsbD_extractLsb', BitVec.getLsbD_rotateRight]
    split
    next h => rw [h]; exact (getLsbD_ring_eight s).symm
    next h => simp [getLsbD_ring_of_lt s (show i + 1 < 8 by omega), hi, Nat.add_comm 1]
  have hcy : (rotateRightThroughCarry s.regs.a s.flags.cy).cy = ((ring s).rotateRight 1).getLsbD 8 := by
    rw [BitVec.getLsbD_rotateRight]
    exact (getLsbD_ring_of_lt s (i := 0) (by decide)).symm
  rw [State.accumulateRotated, hres, hcy, withRing, withA]

/-- Settles O45: RLC and RRC move the bit that is shifted out, RAL and RAR the old CY. -/
theorem rotates : Obligations.Rotates := by
  refine ⟨.of_encode rfl rfl fun _ => rfl, .of_encode rfl rfl fun _ => rfl, .of_encode rfl rfl fun _ => rfl,
    .of_encode rfl rfl fun _ => rfl, fun s => ?_⟩
  rw [← rotateLeft_res, ← rotateRight_res, ← s.accumulateRotated_left, ← s.accumulateRotated_right]
  exact ⟨rfl, rfl, rfl, rfl⟩

/-! ### Complement and carry -/

/-- R217, as a number. -/
theorem complement_eq_ofNat_sub (a : Byte) : ~~~a = BitVec.ofNat 8 (255 - a.toNat) :=
  BitVec.eq_of_toNat_eq (by rw [BitVec.toNat_not, BitVec.toNat_ofNat]; omega)

/-- Settles O46: the complement of A and the three writes of CY. -/
theorem complementAndCarry : Obligations.ComplementAndCarry := by
  refine ⟨.of_encode rfl rfl fun _ => rfl, .of_encode rfl rfl fun _ => rfl, .of_encode rfl rfl fun _ => rfl, fun s => ?_⟩
  rw [← complement_eq_ofNat_sub]
  exact ⟨rfl, rfl, rfl⟩

end Sys2Proof.Machine
end

section
/-! PROOFS. Branches (spec/44_branch.md R242 to R273). -/

namespace Sys2Proof

namespace Machine

/-- R243: the two meanings of a conditional jump differ in PC alone. -/
theorem State.jumpIf_eq_next (s : State) (cond : Cond) (addr : Word) :
    s.jumpIf cond addr = .next { s with pc := if s.flags.holds cond then addr else s.nextPc 3 } := by
  rw [State.jumpIf]
  cases s.flags.holds cond <;> rfl

end Machine

namespace Claims

open Machine

/-- The decoder reads back the bytes of a row whose timing is not one pair of figures. -/
theorem EncodedAs.of_encode {i : Instr} {bytes : List Byte} (hwf : i.wellFormed = true) (hbytes : encode i = bytes) :
    EncodedAs i bytes :=
  ⟨hbytes, hbytes ▸ decode_encode i hwf⟩

/-! ### Jumps -/

/-- R243: bytes, figures and meaning of a conditional jump, all by one condition, in the words of the statements. -/
theorem JumpsIf.of_jumpIf {i : Word → Instr} {n : Nat} (cond : Cond)
    (hrow : ∀ a f s, (i a).wellFormed = true ∧ encode (i a) = enc16 (op n) a ∧ timing f (i a) = jumpTiming f cond ∧
      exec (i a) s = s.jumpIf cond a) : JumpsIf i n (·.holds cond) := by
  intro a s
  obtain ⟨hwf, hbytes, htiming, hexec⟩ := hrow a s.flags s
  exact ⟨.of_encode hwf (hbytes.trans (enc16_eq_op16 n a)), htiming, hexec.trans (s.jumpIf_eq_next cond a)⟩

/-! ### Pushes and calls -/

/-- R64, R79: an instruction that pushes a word to a stack in RAM and then leaves memory and SP alone. -/
theorem Pushes.of_pushWord {i : Instr} {s t : State} {w : Word} {f : State → Result} (hexec : exec i s = andThen (s.pushWord w) f)
    (hstack : StackInRam s) (hrest : ∀ m, f { s with mem := m, sp := s.sp - 2 } = .next { t with mem := m, sp := s.sp - 2 }) :
    Pushes i s w t := by
  simp only [State.pushWord, State.pushBytes, andThen_assoc, andThen_next, hiByte_eq_high, loByte_eq_low] at hexec
  exact .of_store_store hexec hstack.1 hstack.2 hrest

/-- R252: a call pushes the address of the next instruction and goes to its target. -/
theorem Pushes.of_callTo {i : Instr} {s : State} {len : Nat} {target : Word} (hexec : exec i s = s.callTo len target)
    (hstack : StackInRam s) : Pushes i s (s.nextPc len) { s with pc := target } :=
  .of_pushWord hexec hstack fun _ => rfl

/-- R253: the same for a conditional call; one that is not taken pushes nothing. -/
theorem CallsIf.of_callIf {i : Word → Instr} {n : Nat} (cond : Cond)
    (hrow : ∀ a f s, (i a).wellFormed = true ∧ encode (i a) = enc16 (op n) a ∧ timing f (i a) = callTiming f cond ∧
      exec (i a) s = s.callIf cond a) : CallsIf i n (·.holds cond) := by
  intro a s
  obtain ⟨hwf, hbytes, htiming, hexec⟩ := hrow a s.flags s
  refine ⟨.of_encode hwf (hbytes.trans (enc16_eq_op16 n a)), htiming, fun htaken => .of_callTo ?_, fun hnot => ?_⟩
  · rw [hexec, State.callIf, if_pos htaken]
  · rw [hexec, State.callIf, if_neg (Bool.eq_false_iff.1 hnot)]
    rfl

/-! ### Returns -/

/-- R262: PC takes the word whose low byte the first read answers and whose high byte the second, and SP is above both. -/
theorem Answers.of_returnFromStack {i : Instr} {s : State} (hexec : exec i s = .next s.returnFromStack) :
    Answers i s { s with sp := s.sp + 2, pc := word (second s s.sp) (first s s.sp) } := by
  refine ⟨s.draws + readDraws s [s.sp, s.sp + 1], ?_⟩
  simp only [hexec, State.returnFromStack, State.popWord, loadWord_eq_second_first, wordOf_eq_word]

/-- R263: the same for a conditional return; one that is not taken reads nothing. -/
theorem ReturnsIf.of_returnIf {i : Instr} {n : Nat} (cond : Cond)
    (hrow : ∀ f s, i.wellFormed = true ∧ encode i = [op n] ∧ timing f i = returnTiming f cond ∧
      exec i s = s.returnIf cond) : ReturnsIf i n (·.holds cond) := by
  intro s
  obtain ⟨hwf, hbytes, htiming, hexec⟩ := hrow s.flags s
  refine ⟨.of_encode hwf hbytes, htiming, fun htaken => .of_returnFromStack ?_, fun hnot => ?_⟩
  · rw [hexec, State.returnIf, if_pos htaken]
  · rw [hexec, State.returnIf, if_neg (Bool.eq_false_iff.1 hnot)]
    rfl

end Claims

namespace Machine

open Claims

/-- Settles O47: each conditional jump is `jumpIf` of its own condition (R94). -/
theorem jumps : Obligations.Jumps := by
  refine ⟨fun s => ⟨fun a => ⟨.of_encode rfl (enc16_eq_op16 0xC3 a) fun _ => rfl, rfl⟩, .of_encode rfl rfl fun _ => rfl, ?_⟩,
    .of_jumpIf .nz fun _ _ _ => ⟨rfl, rfl, rfl, rfl⟩, .of_jumpIf .z fun _ _ _ => ⟨rfl, rfl, rfl, rfl⟩,
    .of_jumpIf .nc fun _ _ _ => ⟨rfl, rfl, rfl, rfl⟩, .of_jumpIf .c fun _ _ _ => ⟨rfl, rfl, rfl, rfl⟩,
    .of_jumpIf .po fun _ _ _ => ⟨rfl, rfl, rfl, rfl⟩, .of_jumpIf .pe fun _ _ _ => ⟨rfl, rfl, rfl, rfl⟩,
    .of_jumpIf .p fun _ _ _ => ⟨rfl, rfl, rfl, rfl⟩, .of_jumpIf .m fun _ _ _ => ⟨rfl, rfl, rfl, rfl⟩⟩
  rw [← s.hl_eq_word]
  rfl

/-- Settles O48: each conditional call is `callIf` of its own condition (R94). -/
theorem calls : Obligations.Calls :=
  ⟨fun a _ => ⟨.of_encode rfl (enc16_eq_op16 0xCD a) fun _ => rfl, .of_callTo rfl⟩,
    .of_callIf .nz fun _ _ _ => ⟨rfl, rfl, rfl, rfl⟩, .of_callIf .z fun _ _ _ => ⟨rfl, rfl, rfl, rfl⟩,
    .of_callIf .nc fun _ _ _ => ⟨rfl, rfl, rfl, rfl⟩, .of_callIf .c fun _ _ _ => ⟨rfl, rfl, rfl, rfl⟩,
    .of_callIf .po fun _ _ _ => ⟨rfl, rfl, rfl, rfl⟩, .of_callIf .pe fun _ _ _ => ⟨rfl, rfl, rfl, rfl⟩,
    .of_callIf .p fun _ _ _ => ⟨rfl, rfl, rfl, rfl⟩, .of_callIf .m fun _ _ _ => ⟨rfl, rfl, rfl, rfl⟩⟩

/-- Settles O49: each conditional return is `returnIf` of its own condition (R94). -/
theorem returns : Obligations.Returns :=
  ⟨fun _ => ⟨.of_encode rfl rfl fun _ => rfl, .of_returnFromStack rfl⟩,
    .of_returnIf .nz fun _ _ => ⟨rfl, rfl, rfl, rfl⟩, .of_returnIf .z fun _ _ => ⟨rfl, rfl, rfl, rfl⟩,
    .of_returnIf .nc fun _ _ => ⟨rfl, rfl, rfl, rfl⟩, .of_returnIf .c fun _ _ => ⟨rfl, rfl, rfl, rfl⟩,
    .of_returnIf .po fun _ _ => ⟨rfl, rfl, rfl, rfl⟩, .of_returnIf .pe fun _ _ => ⟨rfl, rfl, rfl, rfl⟩,
    .of_returnIf .p fun _ _ => ⟨rfl, rfl, rfl, rfl⟩, .of_returnIf .m fun _ _ => ⟨rfl, rfl, rfl, rfl⟩⟩

/-! ### RST -/

/-- R95: byte 1 of RST as a number. -/
theorem encode_rst : ∀ n : BitVec 3, encode (.rst n) = [op (0xC7 + 8 * n.toNat)] := by decide

/-- R95: the mask keeps the field of `n` and nothing else. -/
theorem rst_opcode_masked : ∀ n : BitVec 3, (op (0xC7 + 8 * n.toNat) &&& 0x38).toNat = 8 * n.toNat := by decide

/-- R272: three places to the left are a factor of 8, and the target stays far below 65,536. -/
theorem rst_target_eq (n : BitVec 3) : n.setWidth 16 <<< 3 = BitVec.ofNat 16 (8 * n.toNat) := by
  have := n.isLt
  refine BitVec.eq_of_toNat_eq ?_
  rw [BitVec.toNat_shiftLeft, BitVec.toNat_setWidth, BitVec.toNat_ofNat, Nat.shiftLeft_eq]
  omega

/-- Settles O50: RST is the one-byte call to `8 * n`. -/
theorem restart : Obligations.Restart := by
  intro n s
  rw [← rst_target_eq]
  exact ⟨.of_encode rfl (encode_rst n) fun _ => rfl, rst_opcode_masked n, .of_callTo rfl⟩

end Machine

end Sys2Proof
end

section
/-! PROOFS. Stack, input and output, interrupt and processor control (spec/45_control_stack_io.md R281 to R294). -/

namespace Sys2Proof

open Claims

namespace Machine

/-! ### Bytes written bit by bit -/

/-- R293: the bits of the byte RIM loads, bit 0 first. -/
theorem getLsbD_rimByte (b7 b6 b5 b4 b3 b2 b1 b0 : Bool) :
    ∀ i < 8, (rimByte b7 b6 b5 b4 b3 b2 b1 b0).getLsbD i = [b0, b1, b2, b3, b4, b5, b6, b7].getD i false
  | 0, _ | 1, _ | 2, _ | 3, _ | 4, _ | 5, _ | 6, _ => by
    simp only [rimByte, BitVec.append_ofBool, BitVec.getLsbD_concat_zero, BitVec.getLsbD_concat_succ]
    rfl
  | 7, _ => by
    simp only [rimByte, BitVec.append_ofBool, BitVec.getLsbD_concat_succ]
    exact BitVec.getLsbD_ofBool b7 0

/-- R29: a flag byte has its bits where RIM's byte has its own. -/
theorem Flags.getLsbD_toByte (f : Flags) (fill : BitVec 3) {i : Nat} (hi : i < 8) :
    (f.toByte fill).getLsbD i = [f.cy, fill.getLsbD 0, f.p, fill.getLsbD 1, f.ac, fill.getLsbD 2, f.z, f.s].getD i false :=
  getLsbD_rimByte f.s f.z _ f.ac _ f.p _ f.cy i hi

/-- R282, R284: the flags come back from their byte whatever the fill bits are. -/
theorem Flags.ofByte_toByte (f : Flags) (fill : BitVec 3) : Flags.ofByte (f.toByte fill) = f := by
  have hbit {i : Nat} := f.getLsbD_toByte fill (i := i)
  rw [Flags.ofByte, hbit (by decide), hbit (by decide), hbit (by decide), hbit (by decide), hbit (by decide)]
  rfl

end Machine

namespace Claims

open Machine

/-! ### Pushes -/

/-- R64, R79: an instruction that pushes two bytes to a stack in RAM and then leaves memory alone. -/
theorem Stores.of_pushBytes {i : Instr} {s t : State} {hi lo : Byte} {f : State → Result}
    (hexec : exec i s = andThen (s.pushBytes hi lo) f) (hstack : StackInRam s)
    (hrest : ∀ m, f { s with mem := m, sp := s.sp - 2 } = .next { t with mem := m }) :
    Stores i s [(s.sp - 2, lo), (s.sp - 1, hi)] t := by
  simp only [State.pushBytes, andThen_assoc, andThen_next] at hexec
  exact .of_store_store hexec hstack.1 hstack.2 hrest

/-- R281: PUSH of any pair. -/
theorem push_pushes (p : Pair) {s : State} (hstack : StackInRam s) :
    Pushes (.push p) s (s.pair p) { s with pc := s.pc + 1 } :=
  .of_pushWord rfl hstack fun _ => rfl

/-- R282: PUSH PSW, its flag byte with the three bits that the counter names. -/
theorem pushPsw_stores {s : State} (hstack : StackInRam s) :
    Stores .pushPsw s [(s.sp - 2, s.flags.toByte (Config.flagFill s.draws)), (s.sp - 1, s.regs.a)]
      { s with sp := s.sp - 2, pc := s.pc + 1, draws := s.draws + 1 } :=
  .of_pushBytes rfl hstack fun _ => rfl

/-! ### Pops -/

theorem popWord_eq_second_first (s : State) :
    s.popWord =
      (wordOf (second s s.sp) (first s s.sp), { s with sp := s.sp + 2, draws := s.draws + readDraws s [s.sp, s.sp + 1] }) := by
  simp only [State.popWord, loadWord_eq_second_first]

/-- R283: POP of a pair sets it from the two bytes, the counter of free values apart. -/
theorem pop_answers (p : Pair) (s : State) :
    Answers (.pop p) s
      { ({ s with sp := s.sp + 2 } : State).setPair p (wordOf (second s s.sp) (first s s.sp)) with pc := s.pc + 1 } := by
  refine ⟨s.draws + readDraws s [s.sp, s.sp + 1], ?_⟩
  rw [exec, execPop, popWord_eq_second_first]
  cases p <;> rfl

/-- R284: POP PSW takes its two bytes from whatever the pop answers. -/
theorem exec_popPsw_of_popWord {s t : State} {hi lo : Byte} (hpop : s.popWord = (wordOf hi lo, t)) :
    exec .popPsw s = .next { withA t hi with flags := Flags.ofByte lo, pc := t.pc + 1 } := by
  rw [exec, execPopPsw, hpop, hiByte_wordOf, loByte_wordOf]
  rfl

theorem popPsw_answers (s : State) :
    Answers .popPsw s
      { withA s (second s s.sp) with flags := Flags.ofByte (first s s.sp), sp := s.sp + 2, pc := s.pc + 1 } :=
  ⟨s.draws + readDraws s [s.sp, s.sp + 1], exec_popPsw_of_popWord (popWord_eq_second_first s)⟩

/-- R284: from a stack in RAM nothing is drawn. -/
theorem exec_popPsw_ram {s : State} (htop : TopInRam s) :
    exec .popPsw s = .next
      { withA s (s.byteAt (s.sp + 1)) with flags := Flags.ofByte (s.byteAt s.sp), sp := s.sp + 2, pc := s.pc + 1 } :=
  exec_popPsw_of_popWord (State.popWord_ram htop.1 htop.2)

/-! ### XTHL -/

/-- R285: with the top of the stack in RAM, XTHL puts HL there and takes what was there. -/
theorem xthl_stores {s : State} (htop : TopInRam s) :
    Stores .xthl s [(s.sp, s.regs.l), (s.sp + 1, s.regs.h)]
      { s with regs := { s.regs with l := s.byteAt s.sp, h := s.byteAt (s.sp + 1) }, pc := s.pc + 1 } := by
  have hexec : exec .xthl s = andThen (s.store (s.sp + 1) s.regs.h) fun s1 => andThen (s1.store s.sp s.regs.l) fun s2 =>
      .next ((s2.setPair .h (wordOf (s.byteAt (s.sp + 1)) (s.byteAt s.sp))).advance 1) := by
    rw [exec, execXthl, State.loadWord_ram htop.1 htop.2]
  refine .of_store_store hexec htop.2 htop.1 fun m => ?_
  simp only [State.setPair, hiByte_wordOf, loByte_wordOf]
  rfl

end Claims

namespace Machine

/-! ### The stack statements -/

/-- Settles O51: a PUSH of each pair, and the flag byte's five fixed bits. -/
theorem pushes : Obligations.Pushes := by
  refine ⟨.of_encode rfl rfl fun _ => rfl, .of_encode rfl rfl fun _ => rfl, .of_encode rfl rfl fun _ => rfl,
    .of_encode rfl rfl fun _ => rfl, fun s hstack => ?_⟩
  rw [← s.bc_eq_word, ← s.de_eq_word, ← s.hl_eq_word]
  obtain ⟨m, hexec, hread⟩ := pushPsw_stores hstack
  have hbit {i : Nat} := Flags.getLsbD_toByte s.flags (Config.flagFill s.draws) (i := i)
  exact ⟨push_pushes .b hstack, push_pushes .d hstack, push_pushes .h hstack, _, m, _, hexec, hread,
    hbit (by decide), hbit (by decide), hbit (by decide), hbit (by decide), hbit (by decide)⟩

/-- Settles O52: the halves of the popped word are what the two reads answer. -/
theorem pops : Obligations.Pops := by
  refine ⟨.of_encode rfl rfl fun _ => rfl, .of_encode rfl rfl fun _ => rfl, .of_encode rfl rfl fun _ => rfl,
    .of_encode rfl rfl fun _ => rfl, fun s => ⟨?_, ?_, ?_, popPsw_answers s⟩⟩
  · simpa only [State.setPair, hiByte_wordOf, loByte_wordOf] using pop_answers .b s
  · simpa only [State.setPair, hiByte_wordOf, loByte_wordOf] using pop_answers .d s
  · simpa only [State.setPair, hiByte_wordOf, loByte_wordOf] using pop_answers .h s

/-- Settles O53: POP PSW reads back the two bytes that PUSH PSW stored. -/
theorem pushPopPswRestores : Obligations.PushPopPswRestores := by
  intro s hstack
  obtain ⟨m, hexec, hread⟩ := pushPsw_stores hstack
  refine ⟨_, hexec, fun u hmem hmap hsp => ?_⟩
  replace hmem : u.mem = m := hmem
  replace hsp : u.sp = s.sp - 2 := hsp
  have hnext : s.sp - 2 + 1 = s.sp - 1 := by bv_omega
  have hdistinct : s.sp - 1 ≠ s.sp - 2 := by bv_omega
  have htop : TopInRam u := by
    simp only [TopInRam, State.isRam, hsp, hnext, State.region_congr (s := s) hmap]
    exact hstack.symm
  have hflags : u.byteAt u.sp = s.flags.toByte (Config.flagFill s.draws) := by
    rw [State.byteAt, hmem, hsp, hread, readAfter, if_pos rfl]
  have ha : u.byteAt (u.sp + 1) = s.regs.a := by
    rw [State.byteAt, hmem, hsp, hnext, hread, readAfter, if_neg hdistinct, readAfter, if_pos rfl]
  have hup : u.sp + 2 = s.sp := by rw [hsp, BitVec.sub_add_cancel]
  rw [exec_popPsw_ram htop, hflags, ha, hup, Flags.ofByte_toByte]

/-- Settles O54: XTHL's two writes, and HL as a number in SP. -/
theorem exchangeStackTop : Obligations.ExchangeStackTop := by
  refine ⟨.of_encode rfl rfl fun _ => rfl, .of_encode rfl rfl fun _ => rfl, fun s => ⟨xthl_stores, ?_⟩⟩
  rw [← s.hl_eq_word]
  rfl

/-- Settles O55: the second XTHL puts back the two bytes that the first one took, so that memory has its old content, which in the
canonical form is the old memory. -/
theorem xthlTwiceRestores : Obligations.XthlTwiceRestores := by
  intro s hwf htop
  obtain ⟨m, hexec, hread⟩ := xthl_stores htop
  obtain ⟨m', hexec', hread'⟩ := xthl_stores
    (s := { s with regs := { s.regs with l := s.byteAt s.sp, h := s.byteAt (s.sp + 1) }, pc := s.pc + 1, mem := m }) htop
  have hdistinct : s.sp + 1 ≠ s.sp := by bv_omega
  have hl : m.read s.sp.toNat = s.regs.l := by rw [hread, readAfter, if_pos rfl]
  have hh : m.read (s.sp + 1).toNat = s.regs.h := by rw [hread, readAfter, if_neg hdistinct, readAfter, if_pos rfl]
  have hwf' : m'.wf = true := (exec_carries hexec').wf ((exec_carries hexec).wf hwf)
  have hmem : m' = s.mem := canonicalMemoryIsContent m' s.mem hwf' hwf fun a => by
    rw [hread']
    simp only [readAfter, State.byteAt, hread]
    split_ifs with hlow hhigh
    · rw [hlow]
    · rw [hhigh]
    · rfl
  refine ⟨_, hexec, hexec'.trans ?_⟩
  simp only [State.byteAt, hl, hh, hmem, BitVec.add_assoc]
  rfl

/-! ### Input and output -/

/-- Settles O56: IN's byte is the port's free value. -/
theorem inputOutput : Obligations.InputOutput := fun s port =>
  ⟨.of_encode rfl rfl fun _ => rfl, ⟨Config.portInput s.draws port, s.draws + 1, rfl⟩, .of_encode rfl rfl fun _ => rfl, rfl⟩

/-! ### Interrupt control -/

/-- R326: an instruction after which no interrupt is recognised ends its step in its own next state with the lines sampled. -/
theorem step_of_unrecognised {i : Instr} {s t : State} (hi : i.wellFormed = true) (hrun : Running s) (hat : At s i)
    (hboundary : recognisesAfter i = false) (hexec : exec i s = .next t) :
    step s = .next ((t.endInstruction i s.eiPending).sampleLines (t.endInstruction i s.eiPending).boundaryInput) := by
  rw [stepRunsDecodedInstruction i s hi hrun hat, hexec, hboundary]
  rfl

/-- Settles O57: EI and DI are the two instructions after which no interrupt is recognised. -/
theorem enableAndDisable : Obligations.EnableAndDisable :=
  ⟨.of_encode rfl rfl fun _ => rfl, .of_encode rfl rfl fun _ => rfl, fun _ => ⟨rfl, rfl,
    fun hrun hat => ⟨_, _, step_of_unrecognised rfl hrun hat rfl rfl⟩,
    fun hrun hat => ⟨_, _, step_of_unrecognised rfl hrun hat rfl rfl⟩⟩⟩

/-- Settles O58: nothing but the halt and PC. -/
theorem haltAndNop : Obligations.HaltAndNop :=
  ⟨.of_encode rfl rfl fun _ => rfl, .of_encode rfl rfl fun _ => rfl, fun _ => ⟨rfl, rfl⟩⟩

/-- Settles O59: the bits of RIM's byte, bit 3 by whether INTE or the free value stands there. -/
theorem readInterruptMask : Obligations.ReadInterruptMask := by
  refine ⟨.of_encode rfl rfl fun _ => rfl, fun s => ?_⟩
  have hbit := getLsbD_rimByte (Config.sidLevel s.draws) s.i75 (Config.rst65Level s.draws) (Config.rst55Level s.draws)
    (if s.eiPending || s.trapRim then Config.rimEnableBit s.draws else s.inte) s.m75 s.m65 s.m55
  refine ⟨_, ⟨s.draws + 1, rfl⟩, hbit 6 (by decide), hbit 2 (by decide), hbit 1 (by decide), hbit 0 (by decide),
    fun hpending htrap => ?_, fun hfree => ?_⟩
  · exact (hbit 3 (by decide)).trans (if_neg (by simp [hpending, htrap]))
  · exact (hbit 3 (by decide)).trans (if_pos (by simpa using hfree))

/-- Settles O60: clearing the latch under bit 4 is a conjunction with its complement. -/
theorem setInterruptMask : Obligations.SetInterruptMask := by
  refine ⟨.of_encode rfl rfl fun _ => rfl, fun s => ?_⟩
  have hlatch : (s.i75 && !s.regs.a.getLsbD 4) = if s.regs.a.getLsbD 4 then false else s.i75 := by
    cases s.regs.a.getLsbD 4 <;> simp
  rw [hlatch]
  rfl

end Machine

end Sys2Proof
end

section
/-! PROOFS. Where a step can stop: the ten bytes of R100 and the ROM whose writes the platform does not define
(spec/60_exceptions.md R320; spec/20_memory.md R78). -/

namespace Sys2Proof.Machine

open Claims

/-! ### A refused write -/

/-- The refusal of a write to a ROM of this map whose writes the platform does not define (R78; log 21). -/
def RefusesRom (s : State) (e : Refusal) : Prop := ∃ a, s.region a = .rom false ∧ e = .romWrite a

/-- Where the map is the same, so is what a write refuses. -/
theorem RefusesRom.of_memMap {s t : State} {e : Refusal} (hmap : t.memMap = s.memMap) : RefusesRom t e → RefusesRom s e
  | ⟨a, hrom, he⟩ => ⟨a, (State.region_congr hmap a).symm.trans hrom, he⟩

theorem State.busWrites_refused {ws : List BusWrite} {s : State} {e : Refusal} (h : State.busWrites ws s = .refused e) :
    RefusesRom s e := by
  induction ws generalizing s with
  | nil => cases h
  | cons w ws ih =>
    rcases andThen_eq_refused h with hwrite | ⟨u, hwrite, hrest⟩
    · cases w with
      | mem a v => exact ⟨a, State.store_refused hwrite⟩
      | port p v => cases hwrite
    · obtain ⟨m, o, rfl, -, -⟩ := State.busWrite_shape hwrite
      exact (ih hrest).of_memMap rfl

theorem exec_refused {i : Instr} {s : State} {e : Refusal} (h : exec i s = .refused e) : RefusesRom s e :=
  State.busWrites_refused ((exec_refused_iff i s e).1 h)

/-- Settles O8: an instruction refuses only a write that is not defined, and there is no fault. -/
theorem everyInstructionCompletes : Obligations.EveryInstructionCompletes := by
  intro i s hdefined
  cases h : exec i s with
  | next t => exact ⟨t, rfl⟩
  | fault f => exact nomatch f
  | refused e =>
    obtain ⟨a, hrom, -⟩ := exec_refused h
    exact absurd hrom (hdefined a)

/-! ### A refused byte -/

/-- A fetch reads all the bytes that byte 1 asks for, so that they stand in the format of an instruction where it selects one. -/
theorem State.exists_formatOf_fetchBytes {s : State} (h : first s s.pc ∉ unassignedBytes) : ∃ i, FormatOf i s.fetchBytes.1 := by
  rw [← firstByte_eq_unassigned, first] at h
  cases hb : firstByte (s.load s.pc).1 with
  | unassigned => exact absurd hb h
  | one i => exact ⟨i, by simpa [State.fetchBytes, instrLength, hb] using FormatOf.one hb⟩
  | two f => exact ⟨_, by simpa [State.fetchBytes, instrLength, hb] using FormatOf.two hb _⟩
  | three f => exact ⟨_, by simpa [State.fetchBytes, instrLength, hb, enc16] using FormatOf.three hb (wordOf _ _)⟩

/-- R100: a fetch is rejected for byte 1 only, and only under the default of ILLEGAL_OPCODE (D3). -/
theorem State.fetch_rejected {s : State} {why : DecodeError} (h : s.fetch.1 = .rejected why) :
    s.params.illegalOpcode = .refuse ∧ why = .unassigned (first s s.pc) ∧ first s s.pc ∈ unassignedBytes := by
  by_cases hfirst : first s s.pc ∈ unassignedBytes
  · rw [State.fetch_of_unassigned hfirst] at h
    cases hpolicy : s.params.illegalOpcode with
    | refuse =>
      rw [hpolicy] at h
      cases h
      exact ⟨rfl, rfl, hfirst⟩
    | nop =>
      rw [hpolicy] at h
      cases h
  · obtain ⟨i, hformat⟩ := State.exists_formatOf_fetchBytes hfirst
    have hdecode : decode s.fetchBytes.1 = .instr i [] := by simpa using hformat.decode_append []
    rw [State.fetch, hdecode, resolveIllegal_instr] at h
    cases h

/-! ### A refused step -/

theorem State.resetAtBoundary_refused {s : State} {recognise : Bool} {done : Nat} {e : Refusal}
    (h : s.resetAtBoundary recognise done = .refused e) : RefusesRom s e := by
  rcases andThen_eq_refused h with hwrites | ⟨u, -, h⟩
  · exact State.busWrites_refused hwrites
  · cases h

/-- The writes made before a reset are refused as any others are; a byte that selects no instruction is not (R361; log 13). -/
theorem State.resetDuring_refused {s : State} {done : Nat} {e : Refusal} (h : s.resetDuring done = .refused e) :
    RefusesRom s e := by
  have hfetch := s.fetch_carries
  unfold State.resetDuring at h
  split at h
  · exact State.resetAtBoundary_refused h
  · split at h
    · rename_i i rest s1 hs1
      rw [hs1] at hfetch
      refine RefusesRom.of_memMap hfetch.memMap ?_
      split at h
      · rcases andThen_eq_refused h with hwrites | ⟨u, -, h⟩
        · exact State.busWrites_refused hwrites
        · cases h
      · rcases andThen_eq_refused h with hexec | ⟨u, hexec, h⟩
        · exact exec_refused hexec
        · exact (State.resetAtBoundary_refused h).of_memMap ((exec_carries hexec).trans (u.endInstruction_carries i _)).memMap
    · cases h

theorem State.runInstruction_refused {s : State} {e : Refusal} (h : s.runInstruction = .refused e) :
    (s.params.illegalOpcode = .refuse ∧ ∃ b ∈ unassignedBytes, e = .illegalOpcode b) ∨ RefusesRom s e := by
  have hfetch := s.fetch_carries
  unfold State.runInstruction at h
  split at h
  · rename_i i rest s1 hs1
    rw [hs1] at hfetch
    refine .inr (RefusesRom.of_memMap hfetch.memMap ?_)
    rcases andThen_eq_refused h with hexec | ⟨u, hexec, hboundary⟩
    · exact exec_refused hexec
    · exact RefusesRom.of_memMap ((exec_carries hexec).trans (u.endInstruction_carries i _)).memMap
        (State.atBoundary_refused hboundary)
  · rename_i why s1 hs1
    obtain ⟨hpolicy, rfl, hfirst⟩ := State.fetch_rejected (congrArg Prod.fst hs1)
    cases h
    exact .inl ⟨hpolicy, first s s.pc, hfirst, rfl⟩

/-- Settles O7: a reset, a halted boundary and an instruction each refuse a write, and the fetch of an instruction a byte. -/
theorem stepStopsOnlyTwoWays : Obligations.StepStopsOnlyTwoWays := by
  refine fun s => ⟨nofun, fun e h => ?_⟩
  unfold step at h
  split at h
  · exact .inr (State.resetDuring_refused h)
  · split at h
    · exact .inr (State.atBoundary_refused h)
    · exact State.runInstruction_refused h

end Sys2Proof.Machine
end

section
/-! PROOFS. Which request a boundary takes, and what a boundary and a halted machine do (spec/60_exceptions.md R322 to R326, R334). -/

namespace Sys2Proof.Machine

open Claims

/-! ### Priority (R325) -/

/-- R322, R323: the model's test of a source is the one of the table. -/
theorem State.requested_iff {s : State} {inp : BoundaryInput} {source : IntSource} :
    s.requested inp source = true ↔ Requested s inp source := by
  cases source <;> simp [State.requested, Requested, and_assoc]

/-- A source at one place of the platform's list is taken exactly where it is requested and nothing before it is. -/
theorem State.enabledRequest_eq_some_iff {s : State} {inp : BoundaryInput} {source : IntSource} (before after : List IntSource)
    (hlist : s.params.interrupts.priority = before ++ source :: after) (honce : source ∉ before) :
    s.enabledRequest inp = some source ↔ Requested s inp source ∧ ∀ x ∈ before, ¬Requested s inp x := by
  simp only [← State.requested_iff]
  rw [State.enabledRequest, hlist, List.find?_append]
  cases hbefore : before.find? (s.requested inp) with
  | some x =>
    have hx : x ≠ source := fun h => honce (h ▸ List.mem_of_find?_eq_some hbefore)
    have htaken : s.requested inp x = true := List.find?_some hbefore
    simpa [hx] using fun _ => ⟨x, List.mem_of_find?_eq_some hbefore, htaken⟩
  | none =>
    have hnone := List.find?_eq_none.1 hbefore
    by_cases hsource : s.requested inp source = true
    · simpa [hsource] using hnone
    · simpa [hsource] using fun h => hsource (List.find?_some h)

/-- Settles O21: the first clause is the first match of the list, and each of the others that of one place of the default list. -/
theorem interruptPriority : Obligations.InterruptPriority := by
  refine fun s inp => ⟨fun source => ?_, fun hlist => ?_⟩
  · rw [State.enabledRequest_eq_some, State.requested_iff]
    simp only [Bool.not_eq_true', ← Bool.not_eq_true, State.requested_iff]
    exact ⟨fun ⟨hsource, before, after, hlist, hnone⟩ => ⟨before, after, hlist, hsource, hnone⟩,
      fun ⟨before, after, hlist, hsource, hnone⟩ => ⟨hsource, before, after, hlist, hnone⟩⟩
  · rw [State.enabledRequest_eq_some_iff [] _ hlist (by decide),
      State.enabledRequest_eq_some_iff [.trap] _ hlist (by decide),
      State.enabledRequest_eq_some_iff [.trap, .rst75] _ hlist (by decide),
      State.enabledRequest_eq_some_iff [.trap, .rst75, .rst65] _ hlist (by decide),
      State.enabledRequest_eq_some_iff [.trap, .rst75, .rst65, .rst55] _ hlist (by decide)]
    simp only [List.forall_mem_cons, Requested]
    refine ⟨?_, ?_, ?_, ?_, ?_⟩ <;> grind

/-! ### The boundary (R324, R326) -/

/-- A boundary with an enabled request enters it. -/
theorem State.atBoundary_of_some {s : State} {source : IntSource}
    (h : (s.sampleLines s.boundaryInput).enabledRequest s.boundaryInput = some source) :
    s.atBoundary true = (s.sampleLines s.boundaryInput).interruptEntry source s.boundaryInput.supplied := by
  simp only [State.atBoundary, h, if_true]

/-- Settles O24: the lines as they are sampled, and the boundary by whether a request is enabled. -/
theorem recognitionAtBoundary : Obligations.RecognitionAtBoundary := by
  rintro s inp rfl
  refine ⟨rfl, fun hlow => ?_, fun hhigh => ?_, rfl, State.atBoundary_of_none true, fun _ => State.atBoundary_of_some⟩
  · rw [State.sampleLines_trapPending, hlow, Bool.and_false]
  · rw [State.sampleLines_trapPending, hhigh, Bool.and_true]
    rfl

/-! ### The halted machine (R334) -/

theorem step_of_halted {s : State} (hhalted : s.halted = true) (hreset : s.boundaryInput.reset = none) :
    step s = s.atBoundary true := by
  simp only [step, hreset, hhalted, if_true]

/-- Settles O25: sampling the lines touches the RST 7.5 latch, the TRAP request and the queue. -/
theorem haltedStep : Obligations.HaltedStep := fun _ hhalted hreset =>
  ⟨step_of_halted hhalted hreset,
    fun hnone => ⟨_, _, (step_of_halted hhalted hreset).trans (State.atBoundary_of_none true hnone)⟩⟩

end Sys2Proof.Machine
end

section
/-! PROOFS. The entry of each interrupt source over a stack in RAM, and the return from it (spec/60_exceptions.md R322, R328, R330,
R333). -/

namespace Sys2Proof.Machine

open Claims

/-! ### Two bytes on a stack in RAM (R64) -/

/-- A push to a stack in RAM in the words of the statements. -/
theorem State.pushWord_stack {s : State} (w : Word) (hstack : StackInRam s) :
    ∃ m, s.pushWord w = .next { s with mem := m, sp := s.sp - 2 } ∧
      ∀ a : Word, m.read a.toNat = readAfter s [(s.sp - 2, low w), (s.sp - 1, high w)] a := by
  obtain ⟨hhigh, hlow⟩ := hstack
  refine ⟨_, State.pushBytes_ram _ _ hhigh hlow, ?_⟩
  rw [hiByte_eq_high, loByte_eq_low]
  exact read_write_eq_readAfter (read_write_eq_readAfter (fun _ => rfl) _ _) _ _

/-- A pop takes back the two bytes that a push has left at SP - 1 and SP - 2, whatever else has changed. -/
theorem State.popWord_of_readAfter {s u : State} {hi lo : Byte} (hstack : StackInRam s) (hmap : u.memMap = s.memMap)
    (hsp : u.sp = s.sp - 2) (hread : ∀ a : Word, u.byteAt a = readAfter s [(s.sp - 2, lo), (s.sp - 1, hi)] a) :
    u.popWord = (wordOf hi lo, { u with sp := s.sp }) := by
  obtain ⟨hhigh, hlow⟩ := hstack
  have hnext : u.sp + 1 = s.sp - 1 := by rw [hsp]; bv_omega
  have hdistinct : s.sp - 1 ≠ s.sp - 2 := by bv_omega
  have hramlow : u.region u.sp = .ram := by rw [State.region_congr hmap, hsp]; exact hlow
  have hramhigh : u.region (u.sp + 1) = .ram := by rw [State.region_congr hmap, hnext]; exact hhigh
  have hbytelow : u.byteAt u.sp = lo := by rw [hread, hsp, readAfter, if_pos rfl]
  have hbytehigh : u.byteAt (u.sp + 1) = hi := by
    rw [hread, hnext, readAfter, if_neg hdistinct, readAfter, if_pos rfl]
  have hup : u.sp + 2 = s.sp := by rw [hsp, BitVec.sub_add_cancel]
  rw [State.popWord_ram hramlow hramhigh, hbytelow, hbytehigh, hup]

/-! ### The entry (R328, R333) -/

/-- The entry of any source over a stack in RAM: what is acknowledged, PC on the stack, and the entry address. -/
theorem State.interruptEntry_stack {s : State} (source : IntSource) (supplied : SuppliedInstr) (hstack : StackInRam s) :
    ∃ m,
      s.interruptEntry source supplied = .next
        { s.acknowledge source with
          mem := m
          sp := s.sp - 2
          pc := entryAddress s.params.interrupts source supplied } ∧
      ∀ a : Word, m.read a.toNat = readAfter s [(s.sp - 2, low s.pc), (s.sp - 1, high s.pc)] a := by
  obtain ⟨m, hpush, hread⟩ := State.pushWord_stack (s := s.acknowledge source) s.pc hstack
  refine ⟨m, ?_, hread⟩
  rw [State.interruptEntry, hpush, andThen_next]
  rfl

/-- Settles O22: only RST 7.5 clears its latch, and each source enters at its own address. -/
theorem interruptEntry : Obligations.InterruptEntry := by
  refine ⟨rfl, rfl, rfl, rfl, rfl, fun s source supplied entry hstack hsource => ?_⟩
  obtain ⟨m, hentry, hread⟩ := State.interruptEntry_stack source supplied hstack
  refine ⟨m, hentry.trans ?_, hread⟩
  rcases hsource with ⟨rfl, rfl⟩ | ⟨rfl, rfl⟩ | ⟨rfl, rfl⟩ | ⟨rfl, rfl⟩ <;> simp [State.acknowledge, entryAddress]

/-- Settles O23: INTR is not the source of any latch, and RST n goes to `8 * n` (R272). -/
theorem intrEntry : Obligations.IntrEntry := by
  intro s supplied hstack
  obtain ⟨m, hentry, hread⟩ := State.interruptEntry_stack .intr supplied hstack
  refine ⟨m, hentry.trans ?_, hread⟩
  cases supplied with
  | rst n => simp [State.acknowledge, entryAddress, rst_target_eq]
  | call addr => simp [State.acknowledge, entryAddress]

/-! ### The return (R262, R330) -/

/-- Settles O27: the two bytes that RET pops are the halves of the PC that the entry pushed. -/
theorem handlerReturns : Obligations.HandlerReturns := by
  intro s t source supplied hstack hentry u hmem hmap hsp
  obtain ⟨m, hnext, hread⟩ := State.interruptEntry_stack source supplied hstack
  cases hentry.symm.trans hnext
  have hpop : u.popWord = (wordOf (high s.pc) (low s.pc), { u with sp := s.sp }) :=
    State.popWord_of_readAfter hstack hmap hsp fun a => by rw [State.byteAt, hmem, hread]
  rw [exec, execRet, State.returnFromStack, hpop, ← hiByte_eq_high, ← loByte_eq_low, wordOf_hiByte_loByte]

end Sys2Proof.Machine
end

section
/-! PROOFS. What clears the RST 7.5 latch and what changes the masks and SOD in one step (spec/60_exceptions.md R323, R324;
spec/45_control_stack_io.md R294). -/

namespace Sys2Proof.Machine

open Claims

/-! ### The byte that selects SIM -/

/-- A fetch answers byte 1 first, whatever follows it. -/
theorem State.fetchBytes_eq_cons (s : State) : ∃ rest, s.fetchBytes.1 = first s s.pc :: rest := by
  simp only [State.fetchBytes]
  split <;> exact ⟨_, rfl⟩

/-- R294: a fetch answers SIM only where byte 1 is SIM's own; the NOP of ILLEGAL_OPCODE is none. -/
theorem State.first_of_fetch_sim {s : State} {rest : List Byte} (h : s.fetch.1 = .instr .sim rest) : first s s.pc = 0x30 := by
  obtain ⟨tail, hbytes⟩ := s.fetchBytes_eq_cons
  have hresolved : resolveIllegal s.params.illegalOpcode (decode s.fetchBytes.1) = .instr .sim rest := h
  cases hdecode : decode s.fetchBytes.1 with
  | rejected why =>
    rw [hdecode] at hresolved
    cases hpolicy : s.params.illegalOpcode <;> rw [hpolicy] at hresolved <;> cases hresolved
  | instr i rest' =>
    rw [hdecode, resolveIllegal_instr] at hresolved
    cases hresolved
    obtain ⟨-, hencoding⟩ := decodeAnswersOnlyEncodings _ _ _ hdecode
    exact (List.cons.inj (hbytes.symm.trans hencoding)).1

/-! ### The boundary -/

/-- At a boundary a set latch is cleared only by the entry of RST 7.5, which clears INTE too (R328). -/
theorem State.atBoundary_latch {s t : State} {recognise : Bool} (h : s.atBoundary recognise = .next t) (hlatch : s.i75 = true) :
    t.i75 = true ∨ (t.pc = s.params.interrupts.rst75Entry ∧ t.inte = false) := by
  rcases State.atBoundary_next h with rfl | ⟨source, -, -, hentry⟩
  · exact .inl (by simp [hlatch])
  · obtain ⟨m, o, rfl, -, -⟩ := State.interruptEntry_shape hentry
    by_cases hsource : source = .rst75
    · subst hsource
      exact .inr ⟨rfl, rfl⟩
    · exact .inl (by simp [hlatch, hsource])

/-- No boundary touches the masks or SOD. -/
theorem State.atBoundary_masks {s t : State} {recognise : Bool} (h : s.atBoundary recognise = .next t) :
    t.m75 = s.m75 ∧ t.m65 = s.m65 ∧ t.m55 = s.m55 ∧ t.sod = s.sod := by
  rcases State.atBoundary_next h with rfl | ⟨source, -, -, hentry⟩
  · exact ⟨rfl, rfl, rfl, rfl⟩
  · obtain ⟨m, o, rfl, -, -⟩ := State.interruptEntry_shape hentry
    exact ⟨rfl, rfl, rfl, rfl⟩

/-! ### The instruction -/

/-- An instruction clears a set latch only as a SIM with bit 4 of A (R294). -/
theorem exec_latch {i : Instr} {s t : State} (h : exec i s = .next t) (hlatch : s.i75 = true) :
    t.i75 = true ∨ (i = .sim ∧ s.regs.a.getLsbD 4 = true) := by
  by_cases hsim : i = .sim
  · subst hsim
    cases h
    cases hbit : s.regs.a.getLsbD 4 with
    | true => exact .inr ⟨rfl, rfl⟩
    | false => exact .inl (by simp [hlatch])
  · obtain ⟨-, -, hcontrol, -⟩ := controlStateFrame i s t h
    obtain ⟨-, -, -, hkept, -⟩ := hcontrol hsim
    exact .inl (hkept.trans hlatch)

/-- Settles O20: a step without a reset ends in a boundary, where only the entry of RST 7.5 clears the latch and nothing changes the
masks; a running step's instruction before it is SIM or changes none of them. -/
theorem latchAndMaskWriters : Obligations.LatchAndMaskWriters := by
  intro s t h hreset
  rcases step_next h with ⟨n, hsome, -⟩ | ⟨-, -, hboundary⟩ | ⟨-, hrun, i, rest, d, u, hfetch, -, hexec, hboundary⟩
  · cases hreset.symm.trans hsome
  · exact ⟨fun hlatch => (State.atBoundary_latch hboundary hlatch).imp_right .inl, fun _ => State.atBoundary_masks hboundary⟩
  · have hsim : i = .sim → first s s.pc = 0x30 := by
      rintro rfl
      exact State.first_of_fetch_sim (congrArg Prod.fst hfetch)
    have hparams : (u.endInstruction i s.eiPending).params = s.params :=
      (u.endInstruction_params i s.eiPending).trans (exec_carries hexec).params
    refine ⟨fun hlatch => ?_, fun hnot => ?_⟩
    · rcases exec_latch hexec hlatch with hkept | ⟨rfl, hbit⟩
      · have hend : (u.endInstruction i s.eiPending).i75 = true := (u.endInstruction_i75 i s.eiPending).trans hkept
        have hafter := State.atBoundary_latch hboundary hend
        rw [hparams] at hafter
        exact hafter.imp_right .inl
      · exact .inr (.inr ⟨hrun, hsim rfl, hbit⟩)
    · obtain ⟨-, -, hcontrol, -⟩ := controlStateFrame i _ u hexec
      obtain ⟨h75, h65, h55, -, hsod⟩ := hcontrol fun h => hnot (hsim h)
      simpa [h75, h65, h55, hsod] using State.atBoundary_masks hboundary

end Sys2Proof.Machine
end

section
/-! PROOFS. What a reset in a step leaves: the reset procedure, applied after exactly the writes that the step had made
(spec/70_reset_and_hazards.md R360, R361; log 13). -/

namespace Sys2Proof.Machine

open Claims

/-! ### Where a reset finds the step -/

theorem step_of_reset {s : State} {n : Nat} (h : s.boundaryInput.reset = some n) : step s = s.resetDuring n := by
  simp only [step, h]

/-- R334: a halted machine has a boundary only. -/
theorem State.resetDuring_of_halted {s : State} (hhalted : s.halted = true) (n : Nat) :
    s.resetDuring n = s.resetAtBoundary true n := if_pos hhalted

/-- R361: a count within the instruction's writes abandons the instruction after them. -/
theorem State.resetDuring_within_writes {s s1 : State} {i : Instr} {rest : List Byte} {n : Nat} (hrun : s.halted = false)
    (hfetch : s.fetch = (.instr i rest, s1)) (hn : n ≤ (writesOf i s1).length) :
    s.resetDuring n = andThen (State.busWrites ((writesOf i s1).take n) s1) fun u => .next u.applyReset := by
  simp only [State.resetDuring, hrun, Bool.false_eq_true, if_false, hfetch, if_pos hn]

/-- R361: a greater count leaves the instruction complete, and the rest of it counts at the boundary. -/
theorem State.resetDuring_beyond_writes {s s1 : State} {i : Instr} {rest : List Byte} {n : Nat} (hrun : s.halted = false)
    (hfetch : s.fetch = (.instr i rest, s1)) (hn : (writesOf i s1).length < n) :
    s.resetDuring n = andThen (exec i s1) fun w =>
      (w.endInstruction i s.eiPending).resetAtBoundary (recognisesAfter i) (n - (writesOf i s1).length) := by
  simp only [State.resetDuring, hrun, Bool.false_eq_true, if_false, hfetch, if_neg (Nat.not_le.2 hn)]

theorem State.resetDuring_of_rejected {s s1 : State} {why : DecodeError} (hrun : s.halted = false)
    (hfetch : s.fetch = (.rejected why, s1)) (n : Nat) : s.resetDuring n = .next s1.applyReset := by
  simp only [State.resetDuring, hrun, Bool.false_eq_true, if_false, hfetch]

/-! ### A reset before the first write (R360) -/

theorem State.resetAtBoundary_zero (s : State) (recognise : Bool) : s.resetAtBoundary recognise 0 = .next s.applyReset := by
  rw [State.resetAtBoundary, List.take_zero, State.busWrites_nil, andThen_next]

/-- Before the first write a step has moved the counter of free values on, with its fetch, and done nothing else. -/
theorem State.resetDuring_zero (s : State) : ∃ d, s.resetDuring 0 = .next ({ s with draws := d } : State).applyReset := by
  rcases Bool.eq_false_or_eq_true s.halted with hhalted | hrun
  · exact ⟨s.draws, (State.resetDuring_of_halted hhalted 0).trans (s.resetAtBoundary_zero true)⟩
  · obtain ⟨d, hfetch, -⟩ := s.fetch_shape
    refine ⟨d, ?_⟩
    cases hdecoded : resolveIllegal s.params.illegalOpcode (decode s.fetchBytes.1) with
    | rejected why =>
      rw [hdecoded] at hfetch
      exact State.resetDuring_of_rejected hrun hfetch 0
    | instr i rest =>
      rw [hdecoded] at hfetch
      rw [State.resetDuring_within_writes hrun hfetch (Nat.zero_le _), List.take_zero, State.busWrites_nil, andThen_next]

/-- Settles O28: the reset procedure, applied to the start state with another counter of free values. -/
theorem resetProcedure : Obligations.ResetProcedure := by
  intro s hreset
  obtain ⟨d, hzero⟩ := s.resetDuring_zero
  exact ⟨_, _, _, _, (step_of_reset hreset).trans hzero⟩

/-! ### A reset within or after an instruction (R361) -/

/-- What the platform defines of writes stays defined, since no part of a step changes the map (R78). -/
theorem writesDefined_of_carries {s t : State} (hdefined : WritesDefined s) (h : Carries s t) : WritesDefined t :=
  fun a => State.region_congr h.memMap a ▸ hdefined a

/-- Writes complete where the platform defines what each does. -/
theorem State.busWrites_completes (ws : List BusWrite) {s : State} (hdefined : WritesDefined s) :
    ∃ t, State.busWrites ws s = .next t := by
  cases h : State.busWrites ws s with
  | next t => exact ⟨t, rfl⟩
  | fault f => exact nomatch f
  | refused e =>
    obtain ⟨a, hrom, -⟩ := State.busWrites_refused h
    exact absurd hrom (hdefined a)

/-- Settles O29: either way the step ends in the reset procedure, applied after the writes made, and the procedure keeps memory and
trace. -/
theorem resetAbandonsInstruction : Obligations.ResetAbandonsInstruction := by
  intro s n i hreset hrun hi hat hdefined
  have hfetch := State.fetch_of_at hi hat
  obtain ⟨u, hu⟩ := State.busWrites_completes ((writesOf i s).take n) hdefined
  rcases Nat.lt_or_ge (writesOf i s).length n with hbeyond | hwithin
  · obtain ⟨w, hw⟩ := everyInstructionCompletes i s hdefined
    have hend : Carries s (w.endInstruction i s.eiPending) := (exec_carries hw).trans (w.endInstruction_carries i _)
    obtain ⟨v, hv⟩ := State.busWrites_completes
      (((w.endInstruction i s.eiPending).boundaryWrites (recognisesAfter i)).take (n - (writesOf i s).length))
      (writesDefined_of_carries hdefined hend)
    have hpc : v.applyReset.pc = s.params.resetPc := congrArg (·.resetPc) (hend.trans (State.busWrites_carries hv)).params
    refine ⟨v.applyReset, u, v, ?_, hu, fun hn => absurd hn (Nat.not_le.2 hbeyond), fun _ => ⟨w, hw, hv⟩, rfl, rfl, hpc,
      rfl, rfl, rfl, rfl, rfl, rfl, rfl, rfl⟩
    rw [step_of_reset hreset, State.resetDuring_beyond_writes hrun hfetch hbeyond, hw, andThen_next, State.resetAtBoundary, hv,
      andThen_next]
  · have hpc : u.applyReset.pc = s.params.resetPc := congrArg (·.resetPc) (State.busWrites_carries hu).params
    refine ⟨u.applyReset, u, u, ?_, hu, fun _ => rfl, fun hn => absurd hwithin (Nat.not_le.2 hn), rfl, rfl, hpc,
      rfl, rfl, rfl, rfl, rfl, rfl, rfl, rfl⟩
    rw [step_of_reset hreset, State.resetDuring_within_writes hrun hfetch hwithin, hu, andThen_next]

/-! ### A reset within an interrupt entry (R328, R361) -/

/-- Where a request is enabled at the boundary, its writes are those of the push of PC. -/
theorem State.boundaryWrites_of_some {s : State} {source : IntSource}
    (h : (s.sampleLines s.boundaryInput).enabledRequest s.boundaryInput = some source) :
    s.boundaryWrites true = pushWrites s (hiByte s.pc) (loByte s.pc) := by
  simp only [State.boundaryWrites, h, Option.isSome_some, Bool.and_self, if_true]

/-- R79: the first of the entry's two writes is that of the high byte of PC. -/
theorem State.resetAtBoundary_one {s : State} {source : IntSource} (hram : s.isRam (s.sp - 1))
    (h : (s.sampleLines s.boundaryInput).enabledRequest s.boundaryInput = some source) :
    s.resetAtBoundary true 1 =
      .next ({ s with mem := s.mem.write (s.sp - 1).toNat (hiByte s.pc) } : State).applyReset := by
  have hfirst : (s.boundaryWrites true).take 1 = [.mem (s.sp - 1) (hiByte s.pc)] := by
    rw [State.boundaryWrites_of_some h]
    rfl
  rw [State.resetAtBoundary, hfirst, State.busWrites_mem, State.store_ram _ hram, andThen_next]

/-- Settles O30: the high byte is on the stack and the low one is not yet. -/
theorem resetAbandonsEntry : Obligations.ResetAbandonsEntry := by
  rintro s source hhalted hreset ⟨hhigh, -⟩ hrequest
  have hstep := ((step_of_reset hreset).trans (State.resetDuring_of_halted hhalted 1)).trans
    (State.resetAtBoundary_one hhigh hrequest)
  rw [hiByte_eq_high] at hstep
  exact ⟨_, hstep, rfl, rfl, read_write_eq_readAfter (ws := []) (fun _ => rfl) (s.sp - 1) (high s.pc)⟩

end Sys2Proof.Machine
end
